-- ==== Sys2Proof/Word.lean ====
section
/-! DEFINITION. The lane word, the lane file's shape and the one way it is built (00_scope.md R9, R12; 10_state.md R20). -/

namespace Sys2Proof

/-- A lane, a data operand, a response or STATUS: an unsigned 64-bit value, bit 0 least significant (R9, R12). -/
abbrev Word := BitVec 64

/-- One byte of the byte view of the state (20_memory.md R43). -/
abbrev Byte := BitVec 8

/-- A lane index `i = x + 5y`, 0..24 (10_state.md R20, R21). -/
abbrev LaneIdx := Fin 25

/-- A round index, 0..23 (41_permutation.md R109). -/
abbrev RoundIdx := Fin 24

/-- The 1600-bit permutation state: 25 lanes of 64 bits, flat, in index order (10_state.md R20). -/
abbrev Lanes := Vector Word 25

/-- One value per column `x = 0..4` (the parities and the theta offsets of 41_permutation.md R103). -/
abbrev Columns := Vector Word 5

/-- The 25-entry vector whose entry `i` is `f i`, every entry computed from the same `f`
("for all i in parallel", 00_scope.md R14).  Written out so that the kernel evaluates it entry by entry. -/
def tabulate {α : Type} (f : LaneIdx → α) : Vector α 25 :=
  #v[f 0, f 1, f 2, f 3, f 4, f 5, f 6, f 7, f 8, f 9, f 10, f 11, f 12,
    f 13, f 14, f 15, f 16, f 17, f 18, f 19, f 20, f 21, f 22, f 23, f 24]

/-- The five-entry vector whose entry `x` is `f x`. -/
def columns (f : Nat → Word) : Columns := #v[f 0, f 1, f 2, f 3, f 4]

end Sys2Proof
end

