-- ==== Sys2Proof/Syntax.lean ====
section
/-! DEFINITION. The commands (one constructor per row of spec/opcode_table.json), the beat that carries one, what a
decoder answers, and the assembler's lines and pseudo-instructions (30_encoding.md). -/

namespace Sys2Proof

/-- The commands of "KFP command interface, version 1" (30_encoding.md R61).  `lane` is the raw 5-bit `CW.LANE`
field; `d` is the 64-bit data operand, kept only where the command uses it (R61, R63). -/
inductive Instr where
  /-- `NOP`: no operation (40_lane_access.md R81). -/
  | nop
  /-- `WRL a<lane>, #d`: write lane (R82). -/
  | wrl (lane : BitVec 5) (d : Word)
  /-- `XRL a<lane>, #d`: XOR into lane (R83). -/
  | xrl (lane : BitVec 5) (d : Word)
  /-- `RDL a<lane>`: read lane (R84). -/
  | rdl (lane : BitVec 5)
  /-- `CLR`: clear the state to zero (R85). -/
  | clr
  /-- `PERM`: apply Keccak-f[1600] (41_permutation.md R110). -/
  | perm
  /-- `RDS`: read STATUS (R86). -/
  | rds
deriving DecidableEq, Repr

/-- One beat of the command port: the command word `CW` and the data operand `D` (30_encoding.md R60). -/
structure Beat where
  cw : BitVec 16
  d  : Word
deriving DecidableEq, Repr

/-- The causes of an illegal command (60_exceptions.md R130; code 0, OK, is no cause). -/
inductive Cause where
  /-- code 1, BAD_OP: a reserved operation code. -/
  | badOp
  /-- code 2, BAD_FIELD: a non-zero `RSV`, or a non-zero `LANE` on NOP, CLR, PERM or RDS. -/
  | badField
  /-- code 3, BAD_LANE: WRL, XRL or RDL of lane 25..31. -/
  | badLane
deriving DecidableEq, Repr

/-- What the decode function answers: `Cmd | Illegal(cause)` (30_encoding.md R67). -/
inductive Decoded where
  | cmd (i : Instr)
  | illegal (c : Cause)
deriving DecidableEq, Repr

/-- A row of the encoding table: a word belongs to it when `word &&& mask = value` (30_encoding.md R69). -/
structure OpcodeRow where
  mnemonic : String
  value : BitVec 16
  mask : BitVec 16
deriving DecidableEq, Repr

/-- How an assembler line names a lane: `a<i>` or `a(x,y)` (30_encoding.md R70). -/
inductive LaneRef where
  | index (i : Nat)
  | coord (x y : Nat)
deriving DecidableEq, Repr

/-- The pseudo-instructions of 30_encoding.md R71.  The immediates `#v` of LDALL and XRBLK are 64-bit values HERE, so
that a wider one cannot be written and is never refused; R71 gives them neither a width nor a refusal: DESIGN CHOICE,
notes/assumptions/21.md. -/
inductive Pseudo where
  /-- `XRB j, #imm8`: XOR one byte of the byte view. -/
  | xrb (j : Nat) (imm : Nat)
  /-- `LDALL #v0, …, #v24`: load a whole state. -/
  | ldall (v : Lanes)
  /-- `RDALL`: read a whole state. -/
  | rdall
  /-- `XRBLK #v0, …, #v(k-1)`: XOR the first `k` lanes. -/
  | xrblk (v : List Word)
deriving DecidableEq, Repr

/-- One assembler line, its operands as the programmer writes them: numbers not yet checked (30_encoding.md R70), but for
the lane values of LDALL and XRBLK, which are 64-bit values already (notes/assumptions/21.md). -/
inductive AsmLine where
  | nop
  | wrl (lane : LaneRef) (imm : Nat)
  | xrl (lane : LaneRef) (imm : Nat)
  | rdl (lane : LaneRef)
  | clr
  | perm
  | rds
  /-- `.cmd <hex16>, <hex64>`: the raw beat, the only way to write an illegal word. -/
  | raw (b : Beat)
  | pseudo (p : Pseudo)
deriving DecidableEq, Repr

/-- Why the assembler refuses a line ("refuses a lane outside 0..24 and an immediate wider than 64 bits, by name and
line", 30_encoding.md R70; the operand ranges of R71).  The names are the model's, notes/assumptions/20.md. -/
inductive AsmError where
  | laneOutOfRange
  | immediateTooWide
  | byteIndexOutOfRange
  | byteTooWide
  | tooManyLanes
deriving DecidableEq, Repr

end Sys2Proof
end

