-- ==== Sys2Proof/WellFormed.lean ====
section
/-! DEFINITION. Which commands are well formed: those some legal command word stands for (30_encoding.md R60, R67). -/

namespace Sys2Proof

/-- A lane field that names a lane: 0..24 (20_memory.md R41). -/
def laneLegal (lane : BitVec 5) : Bool := decide (lane.toNat < 25)

/-- A command is well formed when its lane field, if it has one, names a lane. -/
def Instr.wellFormed : Instr → Bool
  | .nop => true
  | .wrl lane _ => laneLegal lane
  | .xrl lane _ => laneLegal lane
  | .rdl lane => laneLegal lane
  | .clr => true
  | .perm => true
  | .rds => true

end Sys2Proof
end

