-- ==== Sys2Proof/Decode.lean ====
section
/-! DEFINITION. The decode function, total over all command words (30_encoding.md R60 to R69), then the encoder and
the host's numbering of a table row's bits. -/

namespace Sys2Proof

/-- `CW.OP`, bits 15:12 (30_encoding.md R60). -/
def opField (cw : BitVec 16) : BitVec 4 := cw.extractLsb' 12 4

/-- `CW.RSV`, bits 11:5 (R60). -/
def rsvField (cw : BitVec 16) : BitVec 7 := cw.extractLsb' 5 7

/-- `CW.LANE`, bits 4:0 (R60). -/
def laneField (cw : BitVec 16) : BitVec 5 := cw.extractLsb' 0 5

/-- The operation codes (R61): the command an `OP` names, with its operands; none for the reserved `0x7`..`0xF`. -/
def commandOf (op : BitVec 4) (lane : BitVec 5) (d : Word) : Option Instr :=
  match op.toNat with
  | 0x0 => some .nop
  | 0x1 => some (.wrl lane d)
  | 0x2 => some (.xrl lane d)
  | 0x3 => some (.rdl lane)
  | 0x4 => some .clr
  | 0x5 => some .perm
  | 0x6 => some .rds
  | _ => none

/-- Which commands use `CW.LANE` (R61). -/
def Instr.usesLane : Instr → Bool
  | .nop => false
  | .wrl _ _ => true
  | .xrl _ _ => true
  | .rdl _ => true
  | .clr => false
  | .perm => false
  | .rds => false

/-- Which commands use the data operand `D` (R61, R63). -/
def Instr.usesData : Instr → Bool
  | .nop => false
  | .wrl _ _ => true
  | .xrl _ _ => true
  | .rdl _ => false
  | .clr => false
  | .perm => false
  | .rds => false

/-- The decode function of R67, its checks in the rule's order, so that the first that applies gives the cause
(60_exceptions.md R132). -/
def decode (cw : BitVec 16) (d : Word) : Decoded :=
  match commandOf (opField cw) (laneField cw) d with
  | none => .illegal .badOp
  | some i =>
    if rsvField cw ≠ 0#7 then .illegal .badField
    else if i.usesLane = false ∧ laneField cw ≠ 0#5 then .illegal .badField
    else if i.usesLane = true ∧ 25 ≤ (laneField cw).toNat then .illegal .badLane
    else .cmd i

/-- The operation code of a command (R61). -/
def Instr.opcode : Instr → BitVec 4
  | .nop => 0x0
  | .wrl _ _ => 0x1
  | .xrl _ _ => 0x2
  | .rdl _ => 0x3
  | .clr => 0x4
  | .perm => 0x5
  | .rds => 0x6

/-- The `LANE` field of a command: its lane operand, zero where it has none (R60). -/
def Instr.laneBits : Instr → BitVec 5
  | .nop => 0
  | .wrl lane _ => lane
  | .xrl lane _ => lane
  | .rdl lane => lane
  | .clr => 0
  | .perm => 0
  | .rds => 0

/-- The data operand the assembler emits: `D = 0` for a command without one (R70). -/
def Instr.data : Instr → Word
  | .nop => 0
  | .wrl _ d => d
  | .xrl _ d => d
  | .rdl _ => 0
  | .clr => 0
  | .perm => 0
  | .rds => 0

/-- The name of a command, as spec/opcode_table.json spells it. -/
def Instr.mnemonic : Instr → String
  | .nop => "NOP"
  | .wrl _ _ => "WRL"
  | .xrl _ _ => "XRL"
  | .rdl _ => "RDL"
  | .clr => "CLR"
  | .perm => "PERM"
  | .rds => "RDS"

/-- The beat of a command: `CW = OP ‖ RSV ‖ LANE` with `RSV = 0`, and `D` (R60, R70). -/
def encode (i : Instr) : Beat := { cw := i.opcode ++ 0#7 ++ i.laneBits, d := i.data }

/-- Match and mask of every command word (R69, and spec/opcode_table.json). -/
def opcodeTable : List OpcodeRow :=
  [{ mnemonic := "NOP",  value := 0x0000, mask := 0xFFFF },
   { mnemonic := "WRL",  value := 0x1000, mask := 0xFFE0 },
   { mnemonic := "XRL",  value := 0x2000, mask := 0xFFE0 },
   { mnemonic := "RDL",  value := 0x3000, mask := 0xFFE0 },
   { mnemonic := "CLR",  value := 0x4000, mask := 0xFFFF },
   { mnemonic := "PERM", value := 0x5000, mask := 0xFFFF },
   { mnemonic := "RDS",  value := 0x6000, mask := 0xFFFF }]

/-- Whether a command word belongs to a row of the table (R69). -/
def OpcodeRow.covers (row : OpcodeRow) (cw : BitVec 16) : Bool := cw &&& row.mask == row.value

/-- The legal `CW` values, as the last column of R69's table lists them. -/
def legalWords : List (BitVec 16) :=
  [0x0000] ++ (List.range 25).map (fun i => BitVec.ofNat 16 (0x1000 + i))
    ++ (List.range 25).map (fun i => BitVec.ofNat 16 (0x2000 + i))
    ++ (List.range 25).map (fun i => BitVec.ofNat 16 (0x3000 + i)) ++ [0x4000, 0x5000, 0x6000]

/-- The beat whose bits are `w`, numbered as spec/opcode_table.json numbers them: bits 15:0 are `CW`, bits 79:16 the
operand word `D`, and every bit from `nbits` up is 0.  DESIGN CHOICE, notes/assumptions/11.md. -/
def tableBeat (nbits w : Nat) : Beat :=
  { cw := BitVec.ofNat 16 (w % 2 ^ nbits), d := BitVec.ofNat 64 ((w % 2 ^ nbits) / 2 ^ 16) }

/-- The instruction the decoder reads from a table row's word; none where it answers `Illegal`. -/
def decodeTableWord (nbits w : Nat) : Option Instr :=
  match decode (tableBeat nbits w).cw (tableBeat nbits w).d with
  | .cmd i => some i
  | .illegal _ => none

end Sys2Proof
end

