-- ==== Sys2Proof/Config.lean ====
section
/-! DEFINITION. What the spec leaves open: the unspecified lane values (free) and the latencies (arguments). -/

namespace Sys2Proof

/-- The `n`-th free lane value: what an undefined lane holds on the hardware, "some 64-bit value the spec does not
fix" (10_state.md R22, R29; 93_implementation_defined.md U1 to U4).  It has no body, so no proof can see a value of
it; `State.nextFree` counts how many have been used.  DESIGN CHOICE, notes/assumptions/1.md and 3.md. -/
opaque Config.freeLane : Nat → Word

/-- The OPEN latencies of 00_scope.md R10, each at least 1, taken as an ARGUMENT by the timed machine of
Machine/Timing.lean; `step` depends on neither (70_reset_and_hazards.md R156). -/
structure Config.Latency where
  /-- `PERM_LATENCY`: cycles from the acceptance of a legal PERM to its response. -/
  perm : Nat
  /-- `ACC_LATENCY`: cycles from the acceptance of any other command, illegal ones included, to its response. -/
  acc : Nat
  perm_pos : 1 ≤ perm
  acc_pos : 1 ≤ acc

end Sys2Proof
end

