-- ==== Sys2Proof/Machine/State.lean ====
section
/-! DEFINITION. Everything the spec gives the machine, as plain data, and its value after reset (10_state.md). -/

namespace Sys2Proof.Machine

/-- Model faults (60_exceptions.md R136: "not hardware behaviour but the treatment a model must give").  `step` never
stops with one: it RECORDS it in `State.raised`, where it is never cleared, and goes on as the hardware does;
`strictStep` (Safety.lean) stops with it.  notes/assumptions/2.md. -/
inductive Fault where
  /-- Raised by RDL or XRL of the undefined lane `i`, and by PERM while lane `i` is the lowest undefined lane.  Safe:
  the values concerned are free. -/
  | unwrittenLane (i : LaneIdx)
deriving DecidableEq, Repr

/-- Why the model has no next state. -/
inductive Refusal where
  /-- Reserved for an arm of exec whose instruction has no meaning yet; raised by none of this model's arms.  Safe. -/
  | notModelled (mnemonic : String)
  /-- Raised by `step` when the host changes or withdraws a command that was offered and not yet accepted
  (70_reset_and_hazards.md R154, "unspecified behaviour"; 93_implementation_defined.md U7, `refuse`).  Safe. -/
  | hostDutyBroken
deriving DecidableEq, Repr

/-- The response beat (10_state.md R27; 30_encoding.md R66): `rsp_data` and `rsp_err`. -/
structure Response where
  data : Word
  err  : BitVec 2
deriving DecidableEq, Repr

/-- The controller state `ctl` (10_state.md R24) with the registers that hold something in it: the accepted command
`(cw, d)` of 30_encoding.md R65 while EXEC, the response register of R27 while RESP.  Their contents in any other
state are unspecified and unobservable (93_implementation_defined.md U5), so the model gives them none. -/
inductive Ctl where
  /-- IDLE: no command in progress. -/
  | idle
  /-- EXEC: `cmd` has been accepted and its effect is being computed. -/
  | exec (cmd : Beat)
  /-- RESP: `r` is held until the host takes it. -/
  | resp (r : Response)
deriving DecidableEq, Repr

/-- The writable fields of `STATUS` (10_state.md R26); bits 63:3 are always 0 and are not stored. -/
structure Status where
  /-- `ILLEGAL`, bit 0, sticky. -/
  illegal : Bool
  /-- `CAUSE`, bits 2:1, sticky. -/
  cause : BitVec 2
deriving DecidableEq, Repr

/-- The input pins at one rising edge of `clk` (30_encoding.md R64). -/
structure PortIn where
  /-- `rst`. -/
  rst : Bool
  /-- `cmd_valid` with `cmd_word` and `cmd_data`; none is `cmd_valid = 0`. -/
  cmd : Option Beat
  /-- `rsp_ready`. -/
  rspReady : Bool
deriving DecidableEq, Repr

/-- The state of one block, with the host that drives its pins. -/
structure State where
  /-- The lane register file `A[0..24]` (R20). -/
  lanes : Lanes
  /-- `defined[0..24]` (R22). -/
  defined : Vector Bool 25
  /-- `ctl`, the accepted command and the response register (R24, R27; 30_encoding.md R65). -/
  ctl : Ctl
  /-- `STATUS` (R26). -/
  status : Status
  /-- The first model fault raised, never cleared (60_exceptions.md R136). -/
  raised : Option Fault
  /-- MODEL's own: how many free lane values have been used (notes/assumptions/3.md). -/
  nextFree : Nat
  /-- MODEL's own: what the host drives at the coming edges, the next one first; when the list has run out the host
  is at rest (notes/assumptions/5.md). -/
  inputs : List PortIn
  /-- MODEL's own: the command the host offered at the last edge and the block did not accept, which R154 makes it
  keep stable (notes/assumptions/6.md). -/
  held : Option Beat
  /-- MODEL's own: the responses the host has taken, oldest first, the observation of 00_scope.md R18. -/
  delivered : List Response
deriving DecidableEq, Repr

/-- The machine right after reset (10_state.md R29): `ctl` IDLE, `STATUS` 0, every lane undefined and holding a free
value (the spec fixes none; notes/assumptions/1.md); the host has done nothing and nothing is planned. -/
def State.reset : State where
  lanes := tabulate fun i => Config.freeLane i.val
  defined := tabulate fun _ => false
  ctl := .idle
  status := { illegal := false, cause := 0 }
  raised := none
  nextFree := 25
  inputs := []
  held := none
  delivered := []

end Sys2Proof.Machine
end

