-- ==== Sys2Proof/Machine/Flags.lean ====
section
/-! DEFINITION. STATUS: its word, its pins, the cause codes and the sticky update (10_state.md R26, R28;
60_exceptions.md R130, R131). -/

namespace Sys2Proof.Machine

/-- The cause codes of 60_exceptions.md R130. -/
def causeCode : Cause → BitVec 2
  | .badOp => 1
  | .badField => 2
  | .badLane => 3

/-- `STATUS = zext64(CAUSE ‖ ILLEGAL)` (10_state.md R26; 40_lane_access.md R86). -/
def Status.word (st : Status) : Word := (st.cause ++ BitVec.ofBool st.illegal).zeroExtend 64

/-- The `status_o[2:0]` pins, `STATUS[2:0]` (10_state.md R26; 30_encoding.md R64). -/
def Status.pins (st : Status) : BitVec 3 := st.word.extractLsb' 0 3

/-- What an illegal command leaves in STATUS: the first cause is kept, `ILLEGAL` is set (60_exceptions.md R131). -/
def Status.record (st : Status) (c : Cause) : Status :=
  { illegal := true, cause := if st.illegal then st.cause else causeCode c }

/-- STATUS after reset (10_state.md R29; 70_reset_and_hazards.md R150). -/
def Status.clear : Status := { illegal := false, cause := 0 }

/-- The legal values of STATUS: `CAUSE` is 0 exactly when `ILLEGAL = 0` (10_state.md R26). -/
def Status.legal (st : Status) : Bool := st.illegal == (st.cause != 0)

end Sys2Proof.Machine
end

