-- ==== Sys2Proof/Machine/Operands.lean ====
section
/-! DEFINITION. Operand forms: the lane index of a command, lane coordinates, and the byte and bit views of the state
(00_scope.md R11; 20_memory.md R41 to R44; 30_encoding.md R62). -/

namespace Sys2Proof.Machine

/-- The lane a 5-bit lane field names: `zext(CW[4:0])`, not scaled or shifted; 25..31 are reserved and name none
(20_memory.md R41; 30_encoding.md R62). -/
def laneIndex (lane : BitVec 5) : Option LaneIdx :=
  if h : lane.toNat < 25 then some ⟨lane.toNat, h⟩ else none

/-- The lane at column `x`, row `y`, all coordinate arithmetic modulo 5 (00_scope.md R11): `x + 5y`. -/
def laneAt (x y : Nat) : LaneIdx := ⟨x % 5 + 5 * (y % 5), by omega⟩

/-- The column of a lane, `x = i mod 5` (R11). -/
def col (i : LaneIdx) : Nat := i.val % 5

/-- The row of a lane, `y = i div 5` (R11). -/
def row (i : LaneIdx) : Nat := i.val / 5

/-- The lane that holds byte `j` of the byte view (20_memory.md R43). -/
def laneOfByte (j : Fin 200) : LaneIdx := ⟨j.val / 8, by omega⟩

/-- The byte view `S[j] = A[j div 8][8·(j mod 8)+7 : 8·(j mod 8)]` (R43; 90_conflicts.md C1). -/
def byteView (A : Lanes) (j : Fin 200) : Byte := A[laneOfByte j].extractLsb' (8 * (j.val % 8)) 8

/-- The lane that holds bit `n` of the 1600-bit string (20_memory.md R44). -/
def laneOfBit (n : Fin 1600) : LaneIdx := ⟨n.val / 64, by omega⟩

/-- The bit view: bit `n` of the 1600-bit string is bit `n mod 64` of lane `n div 64` (R44). -/
def bitView (A : Lanes) (n : Fin 1600) : Bool := A[laneOfBit n].getLsbD (n.val % 64)

/-- The lane value that has byte `imm` at byte `j`'s place and zero elsewhere (30_encoding.md R71, `XRB`). -/
def byteInLane (j : Fin 200) (imm : Byte) : Word := imm.zeroExtend 64 <<< (8 * (j.val % 8))

end Sys2Proof.Machine
end

