-- ==== Sys2Proof/Machine/Ops.lean ====
section
/-! DEFINITION. The shared operations the meanings are written with: lanes and their defined flags, the response, the
illegal-command outcome and the reset action. -/

namespace Sys2Proof.Machine

/-- `A[i]` (00_scope.md R14). -/
def State.lane (s : State) (i : LaneIdx) : Word := s.lanes[i]

/-- `defined[i]` (10_state.md R22). -/
def State.isDefined (s : State) (i : LaneIdx) : Bool := s.defined[i]

/-- `A[i] <- v`; the defined flag is not touched (00_scope.md R14). -/
def State.setLane (s : State) (i : LaneIdx) (v : Word) : State := { s with lanes := s.lanes.set i v }

/-- `defined[i] <- true` (40_lane_access.md R82). -/
def State.define (s : State) (i : LaneIdx) : State := { s with defined := s.defined.set i true }

/-- All lanes at once become defined and hold `A` (R85, 41_permutation.md R110). -/
def State.loadLanes (s : State) (A : Lanes) : State :=
  { s with lanes := A, defined := tabulate fun _ => true }

/-- `respond(data, err)`: emit the one response beat of the current command (30_encoding.md R65, R66). -/
def State.respond (s : State) (data : Word) (err : BitVec 2) : State := { s with ctl := .resp { data, err } }

/-- Record a model fault; the first is kept and none is ever cleared (60_exceptions.md R136). -/
def State.raiseFault (s : State) (f : Fault) : State := { s with raised := s.raised.or (some f) }

/-- The value of lane `i` becomes unspecified: the next free value (93_implementation_defined.md U3). -/
def State.freeOne (s : State) (i : LaneIdx) : State :=
  { s with lanes := s.lanes.set i (Config.freeLane s.nextFree), nextFree := s.nextFree + 1 }

/-- Every lane becomes undefined and its value unspecified: the next 25 free values (U1, U3, U4). -/
def State.freeAll (s : State) : State :=
  { s with
    lanes := tabulate fun i => Config.freeLane (s.nextFree + i.val)
    defined := tabulate fun _ => false
    nextFree := s.nextFree + 25 }

/-- The lowest undefined lane, if there is one. -/
def State.firstUndefined (s : State) : Option LaneIdx := (List.finRange 25).find? fun i => !s.isDefined i

/-- Touching lane `i`: a model fault if it is undefined (60_exceptions.md R136). -/
def State.touch (s : State) (i : LaneIdx) : State :=
  if s.isDefined i then s else s.raiseFault (.unwrittenLane i)

/-- `A[i] <- A[i] ⊕ v`; an undefined lane stays undefined and holds an unspecified value (40_lane_access.md R83). -/
def State.xorLane (s : State) (i : LaneIdx) (v : Word) : State :=
  if s.isDefined i then s.setLane i (s.lane i ^^^ v) else s.freeOne i

/-- `raise IllegalCommand(c)`, the one exception of the block (60_exceptions.md R131).  It has no entry, no handler and
no return (R133, R135): STATUS is written and the error response emitted. -/
def State.raiseIllegal (s : State) (c : Cause) : State :=
  { s with status := s.status.record c }.respond 0 (causeCode c)

/-- The reset action on the block's own state (70_reset_and_hazards.md R150, R152): any command in progress and any
held response are dropped, STATUS is cleared, every lane is undefined. -/
def State.resetAction (s : State) : State := { s.freeAll with ctl := .idle, status := .clear }

end Sys2Proof.Machine
end

