-- ==== Sys2Proof/Machine/LaneAccess.lean ====
section
/-! DEFINITION. The lane access and control commands: NOP, WRL, XRL, RDL, CLR, RDS (40_lane_access.md R81 to R86). -/

namespace Sys2Proof.Machine

/-- Perform `f` on the lane a lane field names; a field that names none is illegal with cause 3 (20_memory.md R41). -/
def onLane (lane : BitVec 5) (s : State) (f : LaneIdx → State) : Host.Outcome State Fault Refusal :=
  match laneIndex lane with
  | some i => .next (f i)
  | none => .next (s.raiseIllegal .badLane)

/-- NOP: `respond(0, 0)` (R81). -/
def execNop (s : State) : Host.Outcome State Fault Refusal := .next (s.respond 0 0)

/-- WRL: `A[i] <- D; defined[i] <- true; respond(0, 0)` (R82). -/
def execWrl (lane : BitVec 5) (d : Word) (s : State) : Host.Outcome State Fault Refusal :=
  onLane lane s fun i => ((s.setLane i d).define i).respond 0 0

/-- XRL: `A[i] <- A[i] ⊕ D; respond(0, 0)`; of an undefined lane the model fault, and the lane stays undefined (R83). -/
def execXrl (lane : BitVec 5) (d : Word) (s : State) : Host.Outcome State Fault Refusal :=
  onLane lane s fun i => ((s.touch i).xorLane i d).respond 0 0

/-- RDL: `respond(A[i], 0)`; of an undefined lane the model fault, and its unspecified value is returned (R84). -/
def execRdl (lane : BitVec 5) (s : State) : Host.Outcome State Fault Refusal :=
  onLane lane s fun i => (s.touch i).respond (s.lane i) 0

/-- CLR: all lanes 0 and defined; `respond(0, 0)` (R85). -/
def execClr (s : State) : Host.Outcome State Fault Refusal :=
  .next ((s.loadLanes (tabulate fun _ => 0)).respond 0 0)

/-- RDS: `respond(STATUS, 0)` (R86). -/
def execRds (s : State) : Host.Outcome State Fault Refusal := .next (s.respond s.status.word 0)

end Sys2Proof.Machine
end

