-- ==== Sys2Proof/Machine/Keccak.lean ====
section
/-! DEFINITION. The Keccak-f[1600] permutation: its tables, the five step mappings, the round and the 24 rounds
(41_permutation.md R100 to R109, R114). -/

namespace Sys2Proof.Machine

/-- `rotl64(v, n)`, a circular left shift by `n mod 64` (R102). -/
def rotl64 (v : Word) (n : Nat) : Word := (v <<< (n % 64)) ||| (v >>> (64 - n % 64))

/-- Rotation offsets `RHO[0..24]`, by lane index (R101). -/
def RHO : Vector Nat 25 :=
  #v[ 0,  1, 62, 28, 27,
     36, 44,  6, 55, 20,
      3, 10, 43, 25, 39,
     41, 45, 15, 21,  8,
     18,  2, 61, 56, 14]

/-- R100's table, row by row as it is printed: row `k` gives the constants of the rounds `k` and `k + 12` (the spec
supplies them from general knowledge, notes/assumptions/12.md). -/
def roundConstantRows : Vector (Word × Word) 12 :=
  #v[(0x0000000000000001, 0x000000008000808B),
     (0x0000000000008082, 0x800000000000008B),
     (0x800000000000808A, 0x8000000000008089),
     (0x8000000080008000, 0x8000000000008003),
     (0x000000000000808B, 0x8000000000008002),
     (0x0000000080000001, 0x8000000000000080),
     (0x8000000080008081, 0x000000000000800A),
     (0x8000000000008009, 0x800000008000000A),
     (0x000000000000008A, 0x8000000080008081),
     (0x0000000000000088, 0x8000000000008080),
     (0x0000000080008009, 0x0000000080000001),
     (0x000000008000000A, 0x8000000080008008)]

/-- `RC[ir]`, the round constant of round `ir` (R100). -/
def RC (ir : RoundIdx) : Word :=
  let entry := roundConstantRows[ir.val % 12]'(Nat.mod_lt _ (by decide))
  if ir.val < 12 then entry.1 else entry.2

/-- Entry `x mod 5` of a per-column vector (coordinate arithmetic is modulo 5, 00_scope.md R11). -/
def atCol (v : Columns) (x : Nat) : Word := v[x % 5]'(Nat.mod_lt _ (by decide))

/-- `C[x]`: the XOR of the five lanes of column `x` (R103). -/
def parities (A : Lanes) : Columns :=
  columns fun x =>
    A[laneAt x 0] ^^^ A[laneAt x 1] ^^^ A[laneAt x 2] ^^^ A[laneAt x 3] ^^^ A[laneAt x 4]

/-- `D[x] = C[x+4] ⊕ rotl64(C[x+1], 1)`, indices mod 5 (R103). -/
def thetaOffsets (C : Columns) : Columns := columns fun x => atCol C (x + 4) ^^^ rotl64 (atCol C (x + 1)) 1

/-- Theta (R103): every lane is XORed with its column's offset, all parities taken before any lane changes. -/
def theta (A : Lanes) : Lanes :=
  let D := thetaOffsets (parities A)
  tabulate fun i => A[i] ^^^ atCol D (col i)

/-- Rho (R104): every lane is rotated by its own offset. -/
def rho (A : Lanes) : Lanes := tabulate fun i => rotl64 A[i] RHO[i]

/-- Where pi sends the lane at `(x, y)`: to `(y, 2x + 3y)` (R105; 92_eei_decisions.md D18). -/
def piDest (i : LaneIdx) : LaneIdx := laneAt (row i) (2 * col i + 3 * row i)

/-- Where pi takes the lane at `(x, y)` from: `(x + 3y, x)`, R105's second form. -/
def piSource (i : LaneIdx) : LaneIdx := laneAt (col i + 3 * row i) (col i)

/-- Pi (R105): lane positions are permuted; each new lane is read from its source. -/
def pi (A : Lanes) : Lanes := tabulate fun i => A[piSource i]

/-- Chi (R106): every operand is a lane of the state before chi. -/
def chi (A : Lanes) : Lanes :=
  tabulate fun i => A[i] ^^^ (~~~ A[laneAt (col i + 1) (row i)] &&& A[laneAt (col i + 2) (row i)])

/-- Iota (R107): lane 0 is XORed with the round's constant. -/
def iota (A : Lanes) (ir : RoundIdx) : Lanes := A.set 0 (A[0] ^^^ RC ir)

/-- Round `ir`: theta, rho, pi, chi, iota in that order (R108). -/
def keccakRound (A : Lanes) (ir : RoundIdx) : Lanes := iota (chi (pi (rho (theta A)))) ir

/-- `KeccakF1600`: the 24 rounds in increasing round index (R109). -/
def keccakF (A : Lanes) : Lanes := (List.finRange 24).foldl keccakRound A

/-- One step of the generator's shift register `R[0..7]`, bit `k` being `R[k]` (R100, cross-check only). -/
def lfsrStep (R : BitVec 8) : BitVec 8 := (R <<< 1) ^^^ (if R.getLsbD 7 then 0x71#8 else 0#8)

/-- `rc(t)` of the generator (R100, cross-check only). -/
def lfsrBit (t : Nat) : Bool := (lfsrStep^[t % 255] 1#8).getLsbD 0

/-- The constant the generator gives for round `ir`: bit `2^j - 1` is `rc(j + 7·ir)`, `j` in 0..6 (R100). -/
def generatedRC (ir : Nat) : Word :=
  (List.range 7).foldl (fun w j => if lfsrBit (j + 7 * ir) then w ||| (1#64 <<< (2 ^ j - 1)) else w) 0

end Sys2Proof.Machine
end

