-- ==== Sys2Proof/Machine/Perm.lean ====
section
/-! DEFINITION. PERM: apply Keccak-f[1600] to the state (41_permutation.md R110). -/

namespace Sys2Proof.Machine

/-- PERM: `A <- KeccakF1600(A)`, all 25 lanes at once, if every lane is defined; otherwise the model fault, and every
lane becomes undefined and unspecified; `respond(0, 0)` (R110; 60_exceptions.md R136). -/
def execPerm (s : State) : Host.Outcome State Fault Refusal :=
  match s.firstUndefined with
  | none => .next ((s.loadLanes (keccakF s.lanes)).respond 0 0)
  | some i => .next ((s.raiseFault (.unwrittenLane i)).freeAll.respond 0 0)

end Sys2Proof.Machine
end

