-- ==== Sys2Proof/Machine/Dispatch.lean ====
section
/-! DEFINITION. One arm per command (30_encoding.md R61; 40_lane_access.md R80). -/

namespace Sys2Proof.Machine

/-- The rule of each command. -/
def exec (i : Instr) (s : State) : Host.Outcome State Fault Refusal :=
  match i with
  | .nop => Sys2Proof.Machine.execNop s
  | .wrl lane d => Sys2Proof.Machine.execWrl lane d s
  | .xrl lane d => Sys2Proof.Machine.execXrl lane d s
  | .rdl lane => Sys2Proof.Machine.execRdl lane s
  | .clr => Sys2Proof.Machine.execClr s
  | .perm => Sys2Proof.Machine.execPerm s
  | .rds => Sys2Proof.Machine.execRds s

end Sys2Proof.Machine
end

