-- ==== Sys2Proof/Machine/Controller.lean ====
section
/-! DEFINITION. The command port and its controller: pins, the atomic step Exec, one edge of the command cycle
(30_encoding.md R64, R65; 40_lane_access.md R80; 70_reset_and_hazards.md R150 to R154). -/

namespace Sys2Proof.Machine

/-- A host at rest: no reset, no command, no response taken. -/
def PortIn.rest : PortIn := { rst := false, cmd := none, rspReady := false }

/-- The input pins at the coming edge. -/
def State.pins (s : State) : PortIn := s.inputs.headD PortIn.rest

/-- The output pins of the block (30_encoding.md R64). -/
structure PortOut where
  cmdReady : Bool
  /-- `rsp_valid` with `rsp_data` and `rsp_err`; none is `rsp_valid = 0`, when both are unspecified (10_state.md R27). -/
  rsp : Option Response
  statusO : BitVec 3
deriving DecidableEq, Repr

/-- `cmd_ready`: 1 exactly when `ctl = IDLE` and `rst = 0` (R64). -/
def State.cmdReady (s : State) : Bool := s.ctl == .idle && !s.pins.rst

/-- The response the block shows, if it shows one (10_state.md R27). -/
def Ctl.response : Ctl → Option Response
  | .idle => none
  | .exec _ => none
  | .resp r => some r

/-- The output pins (R64): `rsp_valid` is 1 exactly when `ctl = RESP`.  A reset edge sets `ctl <- IDLE`, and with it
`rsp_valid <- 0` (70_reset_and_hazards.md R150), so that from the first edge of a reset on both `cmd_ready` and
`rsp_valid` are 0 while `rst = 1` (R151; notes/assumptions/7.md). -/
def State.outputs (s : State) : PortOut :=
  { cmdReady := s.cmdReady
    rsp := s.ctl.response
    statusO := s.status.pins }

/-- Whether the host keeps the command it offered, and the block has not accepted, stable (R154). -/
def State.hostKeepsDuty (s : State) : Bool :=
  match s.held with
  | none => true
  | some b => s.pins.cmd == some b

/-- The edge has passed: the host's plan moves on by one, and a command that was offered and not accepted stays due
(R154). -/
def State.passEdge (s : State) : State :=
  { s with inputs := s.inputs.tail, held := if s.cmdReady then none else s.pins.cmd }

/-- `Exec(state, cw, d)`: decode, then the rule of the command or the illegal-command outcome (40_lane_access.md R80). -/
def execBeat (b : Beat) (s : State) : Host.Outcome State Fault Refusal :=
  match decode b.cw b.d with
  | .cmd i => exec i s
  | .illegal c => .next (s.raiseIllegal c)

/-- IDLE at an edge: accept the command on the pins, if there is one (30_encoding.md R65). -/
def State.accept (s : State) : State :=
  match s.pins.cmd with
  | some b => { s.passEdge with ctl := .exec b }
  | none => s.passEdge

/-- RESP at an edge: the host takes the response if `rsp_ready = 1` (R65). -/
def State.offerResponse (r : Response) (s : State) : State :=
  if s.pins.rspReady then { s.passEdge with ctl := .idle, delivered := s.delivered ++ [r] } else s.passEdge

/-- One edge of `clk` at which something can happen: reset (70_reset_and_hazards.md R150), or the controller's case
(30_encoding.md R65); the edges an operation needs in EXEC are one step here (R156, notes/assumptions/4.md). -/
def clockEdge (s : State) : Host.Outcome State Fault Refusal :=
  if s.pins.rst then .next s.passEdge.resetAction
  else if !s.hostKeepsDuty then .refused .hostDutyBroken
  else
    match s.ctl with
    | .idle => .next s.accept
    | .exec b => execBeat b s.passEdge
    | .resp r => .next (s.offerResponse r)

/-- The state in which `b` has just been accepted and the next edge runs it: in EXEC, no earlier offer due, and no
reset at that edge (notes/assumptions/5.md). -/
def State.withAccepted (s : State) (b : Beat) : State :=
  { s with
    ctl := .exec b
    held := none
    inputs := s.inputs.modifyHead fun p => { p with rst := false } }

end Sys2Proof.Machine
end

