-- ==== Sys2Proof/Machine/Step.lean ====
section
/-! DEFINITION. The step of the machine, and placing a command where the next step runs it. -/

namespace Sys2Proof.Machine

/-- One step: one edge of the command cycle. -/
def step (s : State) : Host.Outcome State Fault Refusal := clockEdge s

/-- `s` with the command of a table row's word accepted, so that the very next step runs it. -/
def State.withFetchWord (s : State) (nbits w : Nat) : State := s.withAccepted (tableBeat nbits w)

end Sys2Proof.Machine
end

