-- ==== Sys2Proof/Machine/Assembler.lean ====
section
/-! DEFINITION. The assembler: lines to beats, the pseudo-instructions' expansions, and a line's text
(30_encoding.md R70, R71). -/

namespace Sys2Proof.Machine

/-- A lane operand, refused outside 0..24; `a(x,y)` means `a<x+5y>` (R70). -/
def resolveLane : LaneRef → Except AsmError (BitVec 5)
  | .index i => if i < 25 then .ok (BitVec.ofNat 5 i) else .error .laneOutOfRange
  | .coord x y => if x < 5 ∧ y < 5 then .ok (BitVec.ofNat 5 (x + 5 * y)) else .error .laneOutOfRange

/-- An immediate, refused when wider than 64 bits (R70). -/
def resolveImm (n : Nat) : Except AsmError Word :=
  if n < 2 ^ 64 then .ok (BitVec.ofNat 64 n) else .error .immediateTooWide

/-- The lane field that names lane `i`. -/
def laneBitsOf (i : LaneIdx) : BitVec 5 := BitVec.ofNat 5 i.val

/-- The expansion of a pseudo-instruction (R71).  Operands outside R71's ranges are refused, and of an `XRB` with both
operands bad the byte index is named: DESIGN CHOICE, notes/assumptions/20.md. -/
def expandPseudo : Pseudo → Except AsmError (List Instr)
  | .xrb j imm =>
    if h : j < 200 then
      if imm < 2 ^ 8 then
        .ok [.xrl (laneBitsOf (laneOfByte ⟨j, h⟩)) (byteInLane ⟨j, h⟩ (BitVec.ofNat 8 imm))]
      else .error .byteTooWide
    else .error .byteIndexOutOfRange
  | .ldall v => .ok ((List.finRange 25).map fun i => .wrl (laneBitsOf i) v[i])
  | .rdall => .ok ((List.finRange 25).map fun i => .rdl (laneBitsOf i))
  | .xrblk v =>
    if v.length ≤ 25 then .ok (v.mapIdx fun i w => .xrl (BitVec.ofNat 5 i) w) else .error .tooManyLanes

/-- The commands of a line; `.cmd` is no command but a raw beat, and has none.  Of a line with both its lane and its
immediate bad the LANE is the one refused by name: R70 does not say which, DESIGN CHOICE, notes/assumptions/20.md. -/
def lineCommands : AsmLine → Except AsmError (List Instr)
  | .nop => .ok [.nop]
  | .wrl lane imm => do .ok [.wrl (← resolveLane lane) (← resolveImm imm)]
  | .xrl lane imm => do .ok [.xrl (← resolveLane lane) (← resolveImm imm)]
  | .rdl lane => do .ok [.rdl (← resolveLane lane)]
  | .clr => .ok [.clr]
  | .perm => .ok [.perm]
  | .rds => .ok [.rds]
  | .raw _ => .ok []
  | .pseudo p => expandPseudo p

/-- The beats of a line: `CW = OP<<12 | i` and `D`, or the raw beat as given (R70). -/
def assemble : AsmLine → Except AsmError (List Beat)
  | .raw b => .ok [b]
  | line => (lineCommands line).map (List.map encode)

/-- The beats of a program, or the number (from 1) of the first refused line and why (R70, "by name and line"). -/
def assembleFrom (line : Nat) : List AsmLine → Except (Nat × AsmError) (List Beat)
  | [] => .ok []
  | l :: ls =>
    match assemble l with
    | .error e => .error (line, e)
    | .ok bs => (assembleFrom (line + 1) ls).map (bs ++ ·)

/-- A number in hex, `0x…` (R70). -/
def hexText (n : Nat) : String := "0x" ++ String.ofList (Nat.toDigits 16 n)

/-- A lane operand's text (R70). -/
def laneText : LaneRef → String
  | .index i => "a" ++ toString i
  | .coord x y => "a(" ++ toString x ++ "," ++ toString y ++ ")"

/-- The text of a list of immediates (R71). -/
def immsText (v : List Word) : String := ", ".intercalate (v.map fun w => "#" ++ hexText w.toNat)

/-- The text of a line (R70, R71). -/
def lineText : AsmLine → String
  | .nop => "NOP"
  | .wrl lane imm => "WRL  " ++ laneText lane ++ ", #" ++ hexText imm
  | .xrl lane imm => "XRL  " ++ laneText lane ++ ", #" ++ hexText imm
  | .rdl lane => "RDL  " ++ laneText lane
  | .clr => "CLR"
  | .perm => "PERM"
  | .rds => "RDS"
  | .raw b => ".cmd " ++ hexText b.cw.toNat ++ ", " ++ hexText b.d.toNat
  | .pseudo (.xrb j imm) => "XRB  " ++ toString j ++ ", #" ++ hexText imm
  | .pseudo (.ldall v) => "LDALL " ++ immsText v.toList
  | .pseudo .rdall => "RDALL"
  | .pseudo (.xrblk v) => "XRBLK " ++ immsText v

end Sys2Proof.Machine
end

