-- ==== Sys2Proof/Machine/InPlace.lean ====
section
/-! DEFINITION. The implementation forms: the permutation updated in place, one lane at a time, with the temporaries
the hazards ask for (41_permutation.md R112; 70_reset_and_hazards.md R157; hidden datapath state, 10_state.md R25). -/

namespace Sys2Proof.Machine

/-- Theta in place: every parity first, then the lanes one by one (R157). -/
def thetaInPlace (A : Lanes) : Lanes :=
  let D := thetaOffsets (parities A)
  (List.finRange 25).foldl (fun (B : Lanes) (i : LaneIdx) => B.set i (B[i] ^^^ atCol D (col i))) A

/-- Rho in place: a lane's new value needs no other lane. -/
def rhoInPlace (A : Lanes) : Lanes :=
  (List.finRange 25).foldl (fun (B : Lanes) (i : LaneIdx) => B.set i (rotl64 B[i] RHO[i])) A

/-- The cycle of pi from lane 1: each entry is the destination of the one before it (R112). -/
def piCycle : List LaneIdx :=
  [10, 7, 11, 17, 18, 3, 5, 16, 8, 21, 24, 4, 15, 23, 19, 13, 12, 2, 20, 14, 22, 9, 6, 1]

/-- The datapath of the walk: the lanes, the displaced lane's value in its temporary, and where that value is from. -/
structure Walk where
  lanes : Lanes
  carried : Word
  source : LaneIdx
deriving DecidableEq, Repr

/-- One move of the walk: the lane displaced at `dest` is saved, and the carried value stored there as `f` of it and
of its source position. -/
def walkMove (f : Word → LaneIdx → Word) (w : Walk) (dest : LaneIdx) : Walk :=
  { lanes := w.lanes.set dest (f w.carried w.source), carried := w.lanes[dest], source := dest }

/-- The walk over the whole cycle, from lane 1 (R112). -/
def walkCycle (f : Word → LaneIdx → Word) (A : Lanes) : Lanes :=
  (piCycle.foldl (walkMove f) { lanes := A, carried := A[1], source := 1 }).lanes

/-- Pi in place: each lane moves exactly once and none is read after it has been overwritten (R112, R157). -/
def piInPlace (A : Lanes) : Lanes := walkCycle (fun v _ => v) A

/-- Rho merged into the walk: each lane is rotated by its source's offset as it moves (R112). -/
def rhoPiInPlace (A : Lanes) : Lanes := walkCycle (fun v src => rotl64 v RHO[src]) A

/-- Chi on row `y` in place, from a snapshot of the row before chi (R106, R157). -/
def chiRowInPlace (A : Lanes) (y : Nat) : Lanes :=
  let snap := columns fun x => A[laneAt x y]
  (List.range 5).foldl
    (fun B x => B.set (laneAt x y) (atCol snap x ^^^ (~~~ atCol snap (x + 1) &&& atCol snap (x + 2)))) A

/-- Chi in place, row by row. -/
def chiInPlace (A : Lanes) : Lanes := (List.range 5).foldl chiRowInPlace A

/-- A round in place; iota reads and writes lane 0 only (R157). -/
def roundInPlace (A : Lanes) (ir : RoundIdx) : Lanes := iota (chiInPlace (rhoPiInPlace (thetaInPlace A))) ir

/-- The 24 rounds in place. -/
def keccakInPlace (A : Lanes) : Lanes := (List.finRange 24).foldl roundInPlace A

/-- The corruption R157 warns of: chi on row `y` in place WITHOUT the snapshot, in order x = 0..4.  No part of the
machine; a test shows that it differs (95_test_vectors.md V-CHI). -/
def chiRowCorrupt (A : Lanes) (y : Nat) : Lanes :=
  (List.range 5).foldl
    (fun B x => B.set (laneAt x y) (B[laneAt x y] ^^^ (~~~ B[laneAt (x + 1) y] &&& B[laneAt (x + 2) y]))) A

end Sys2Proof.Machine
end

