-- ==== Sys2Proof/Machine/Sequence.lean ====
section
/-! DEFINITION. Sequences of commands: each performed as one atomic step, and the pins a host drives for them
(20_memory.md R46 to R48; 30_encoding.md R65; 00_scope.md R18). -/

namespace Sys2Proof.Machine

/-- The host takes the held response, if there is one: the last arc of the command cycle (30_encoding.md R65). -/
def State.takeResponse (s : State) : State :=
  match s.ctl with
  | .idle => s
  | .exec _ => s
  | .resp r => { s with ctl := .idle, delivered := s.delivered ++ [r] }

/-- A sequence of commands as atomic steps, each response taken before the next command (20_memory.md R47). -/
def runBeats : List Beat → State → Host.Outcome State Fault Refusal
  | [], s => .next s
  | b :: bs, s =>
    match execBeat b s with
    | .next t => runBeats bs t.takeResponse
    | .fault f => .fault f
    | .refused r => .refused r

/-- `n` steps of the machine, stopping at the first fault or refusal. -/
def runSteps : Nat → State → Host.Outcome State Fault Refusal
  | 0, s => .next s
  | n + 1, s =>
    match step s with
    | .next t => runSteps n t
    | .fault f => .fault f
    | .refused r => .refused r

/-- The input pins at the edge `k` edges after the coming one, the host being at rest when its plan has run out
(notes/assumptions/5.md). -/
def State.pinsAt (s : State) (k : Nat) : PortIn := (s.inputs.drop k).headD PortIn.rest

/-- Over the next `n` edges the host keeps its duty (70_reset_and_hazards.md R154) while the block accepts nothing: the
command that is due is on the pins, and a command once on the pins stays on them. -/
def State.keepsOffer (s : State) (n : Nat) : Prop :=
  (∀ b, 0 < n → s.held = some b → (s.pinsAt 0).cmd = some b) ∧
  (∀ k b, k + 1 < n → (s.pinsAt k).cmd = some b → (s.pinsAt (k + 1)).cmd = some b)

/-- The pins of a host that offers `b`, waits an edge, and takes the response. -/
def beatPlan (b : Beat) : List PortIn :=
  [{ rst := false, cmd := some b, rspReady := false }, PortIn.rest,
   { rst := false, cmd := none, rspReady := true }]

/-- The pins of a host that gives the commands of a list one after the other. -/
def hostPlan (bs : List Beat) : List PortIn := bs.flatMap beatPlan

end Sys2Proof.Machine
end

