-- ==== Sys2Proof/Machine/Timing.lean ====
section
/-! DEFINITION. The machine edge by edge, the two OPEN latencies taken as an argument (00_scope.md R10; 30_encoding.md
R65; 70_reset_and_hazards.md R156), and several blocks side by side (60_exceptions.md R138). -/

namespace Sys2Proof.Machine

/-- A block and the number of edges still to come until the operation in EXEC has finished. -/
structure Timed where
  core : State
  left : Nat
deriving DecidableEq, Repr

/-- The latency of a beat: `PERM_LATENCY` for a legal PERM, `ACC_LATENCY` for every other command, illegal ones
included (R156; 60_exceptions.md R131). -/
def latencyOf (L : Config.Latency) (b : Beat) : Nat :=
  if decode b.cw b.d = .cmd .perm then L.perm else L.acc

/-- The edges a controller state still has to wait: the whole latency right after acceptance, none otherwise. -/
def latencyOfCtl (L : Config.Latency) : Ctl → Nat
  | .idle => 0
  | .exec b => latencyOf L b
  | .resp _ => 0

/-- Whether a command is in EXEC (10_state.md R24). -/
def Ctl.busy : Ctl → Bool
  | .idle => false
  | .exec _ => true
  | .resp _ => false

/-- One rising edge of `clk`: an operation in EXEC with more than one edge to go waits, unless reset or a broken duty
ends the wait; every other edge is a step. -/
def tick (L : Config.Latency) (t : Timed) : Host.Outcome Timed Fault Refusal :=
  if t.core.ctl.busy ∧ 1 < t.left ∧ t.core.pins.rst = false ∧ t.core.hostKeepsDuty then
    .next { core := t.core.passEdge, left := t.left - 1 }
  else
    match step t.core with
    | .next u => .next { core := u, left := latencyOfCtl L u.ctl }
    | .fault f => .fault f
    | .refused r => .refused r

/-- `k` edges, stopping at the first fault or refusal. -/
def ticks (L : Config.Latency) : Nat → Timed → Host.Outcome Timed Fault Refusal
  | 0, t => .next t
  | k + 1, t =>
    match tick L t with
    | .next u => ticks L k u
    | .fault f => .fault f
    | .refused r => .refused r

/-- `N_INSTANCES` independent blocks, each with its own lanes, STATUS, port and reset (R138). -/
abbrev Blocks := List State

/-- A step of block `k`; the others share nothing with it (R138).  None where there is no block `k`. -/
def stepBlock (k : Nat) (blocks : Blocks) : Option (Host.Outcome Blocks Fault Refusal) :=
  match blocks[k]? with
  | none => none
  | some s =>
    match step s with
    | .next t => some (.next (blocks.set k t))
    | .fault f => some (.fault f)
    | .refused r => some (.refused r)

end Sys2Proof.Machine
end

