-- ==== Sys2Proof/Safety.lean ====
section
/-! DEFINITION. What claims take as a safe run: the model fault as a stop, "no fault and ILLEGAL = 0", the machine's
invariant, and when two states differ only in what the spec leaves unspecified (60_exceptions.md R136). -/

namespace Sys2Proof.Machine

/-- R136's premise for a claim about a program: "no fault and ILLEGAL = 0". -/
def State.clean (s : State) : Prop := s.raised = none ∧ s.status.illegal = false

/-- The step in which a model fault stops the machine: a state with a fault raised is never final (R136;
95_test_vectors.md V-M). -/
def strictStep (s : State) : Host.Outcome State Fault Refusal :=
  match s.raised with
  | some f => .fault f
  | none =>
    match step s with
    | .next t =>
      match t.raised with
      | some f => .fault f
      | none => .next t
    | .fault f => .fault f
    | .refused r => .refused r

/-- All 25 lanes are defined: the boot requirement is met (70_reset_and_hazards.md R153). -/
def State.booted (s : State) : Prop := ∀ i : LaneIdx, s.isDefined i = true

/-- An error response carries no data (30_encoding.md R66). -/
def Response.legal (r : Response) : Bool := r.err == 0 || r.data == 0

/-- The response in the response register, if any, is legal, and an error in it has set `ILLEGAL` (R66,
60_exceptions.md R131). -/
def Ctl.legal (c : Ctl) (st : Status) : Bool :=
  match c with
  | .idle => true
  | .exec _ => true
  | .resp r => r.legal && (r.err == 0 || st.illegal)

/-- The invariant: STATUS has a legal value (10_state.md R26), and every response, held or taken, is legal. -/
def State.inv (s : State) : Prop :=
  s.status.legal = true ∧ s.ctl.legal s.status = true ∧ ∀ r ∈ s.delivered, r.legal = true

/-- Two states that differ at most in the contents of undefined lanes, which the spec leaves unspecified
(10_state.md R22). -/
def State.agree (s t : State) : Prop :=
  s.defined = t.defined ∧ s.ctl = t.ctl ∧ s.status = t.status ∧ s.raised = t.raised ∧ s.nextFree = t.nextFree ∧
    s.inputs = t.inputs ∧ s.held = t.held ∧ s.delivered = t.delivered ∧
    ∀ i : LaneIdx, s.isDefined i = true → s.lane i = t.lane i

end Sys2Proof.Machine
end

