-- ==== Sys2Proof/Certificates/Slice0/Obligations.lean ====
section
/-! DEFINITION. The statements for the provers.  A clause "t = { s with f := t.f, … }" is a frame: every field of
the state not named in it is as it was. -/

open Sys2Proof Sys2Proof.Machine

/-! ## Encoding -/

/-- One word of each command, written out from the table of 30_encoding.md R69, decodes to it, whatever the data of a
command that uses none. -/
def Obligations.SpecWordsDecode : Prop :=
  ∀ d : Word,
    decode 0b0000000000000000#16 d = .cmd .nop ∧ decode 0b0001000000000111#16 d = .cmd (.wrl 7 d) ∧
    decode 0b0010000000000000#16 d = .cmd (.xrl 0 d) ∧ decode 0b0011000000011000#16 d = .cmd (.rdl 24) ∧
    decode 0b0100000000000000#16 d = .cmd .clr ∧ decode 0b0101000000000000#16 d = .cmd .perm ∧
    decode 0b0110000000000000#16 d = .cmd .rds

/-- Decoding what the encoder writes gives back every well-formed command, every operand at every value. -/
def Obligations.DecodeEncodeRoundTrip : Prop :=
  ∀ i : Instr, i.wellFormed = true → decode (encode i).cw (encode i).d = .cmd i

/-- Each word has one meaning: a word that decodes to a command is that command's encoding, the command is well
formed, and its data operand, where it uses one, is the beat's. -/
def Obligations.EncodeDecodeRoundTrip : Prop :=
  ∀ (cw : BitVec 16) (d : Word) (i : Instr), decode cw d = .cmd i →
    i.wellFormed = true ∧ (encode i).cw = cw ∧ (i.usesData = true → (encode i).d = d) ∧ i.opcode = opField cw

/-- 30_encoding.md R67, its checks in arithmetic on the word: OP is bits 15:12, RSV bits 11:5, LANE bits 4:0; the
checks in the rule's order (60_exceptions.md R132) give the cause. -/
def Obligations.DecodeChecksInOrder : Prop :=
  ∀ (cw : BitVec 16) (d : Word),
    let op := cw.toNat / 2 ^ 12
    let rsv := cw.toNat / 2 ^ 5 % 2 ^ 7
    let lane := cw.toNat % 2 ^ 5
    let plain := op = 0 ∨ op = 4 ∨ op = 5 ∨ op = 6
    (7 ≤ op → decode cw d = .illegal .badOp) ∧
    (op < 7 → rsv ≠ 0 → decode cw d = .illegal .badField) ∧
    (op < 7 → rsv = 0 → plain → lane ≠ 0 → decode cw d = .illegal .badField) ∧
    (op < 7 → rsv = 0 → ¬ plain → 25 ≤ lane → decode cw d = .illegal .badLane) ∧
    (op < 7 → rsv = 0 → plain → lane = 0 → ∃ i, decode cw d = .cmd i ∧ i.opcode.toNat = op ∧ i.usesLane = false) ∧
    (op < 7 → rsv = 0 → ¬ plain → lane < 25 →
      ∃ i, decode cw d = .cmd i ∧ i.opcode.toNat = op ∧ i.usesLane = true ∧ i.laneBits.toNat = lane)

/-- The legal words are exactly the 79 that 30_encoding.md R69 lists (3 × 25 + 4, R67), and each lies in the row of
the table whose mnemonic its command has, and in no other. -/
def Obligations.LegalWordsAreTheTables : Prop :=
  legalWords.length = 79 ∧ legalWords.Nodup ∧
  (∀ (cw : BitVec 16) (d : Word), (∃ i, decode cw d = .cmd i) ↔ cw ∈ legalWords) ∧
  (∀ (cw : BitVec 16) (d : Word) (i : Instr), decode cw d = .cmd i →
    ∀ row ∈ opcodeTable, row.covers cw = true ↔ row.mnemonic = i.mnemonic)

/-- 30_encoding.md R63: the data of a command that does not use it is ignored, and no data makes a word illegal. -/
def Obligations.UnusedDataIsIgnored : Prop :=
  (∀ (cw : BitVec 16) (d e : Word) (i : Instr), decode cw d = .cmd i → i.usesData = false → decode cw e = .cmd i) ∧
  (∀ (cw : BitVec 16) (d e : Word) (c : Cause), decode cw d = .illegal c → decode cw e = .illegal c)

/-- 30_encoding.md R70: every beat the assembler emits for a line that is not raw data is a legal command.  `a<i>` is
accepted for `i` in 0..24 and names lane `i`, `a(x,y)` for `x` and `y` in 0..4 and names lane `x+5y`, an immediate up to
64 bits is itself; a lane outside 0..24, a coordinate outside 0..4 and a wider immediate are refused by name, and in a
program with the number of the first refused line.  The operand ranges of R71's `XRB` and `XRBLK` are refused likewise.  WHICH
refusal a line with two bad operands gets, the lane's (or byte index's) before the immediate's (or byte's), the names of
the refusals, and that R71's ranges are refused, are the model's choice, notes/assumptions/20.md. -/
def Obligations.AssembledBeatsAreLegal : Prop :=
  (∀ (line : AsmLine) (bs : List Beat), assemble line = .ok bs → (∀ b, line ≠ .raw b) →
    ∀ b ∈ bs, ∃ i, decode b.cw b.d = .cmd i) ∧
  (∀ i, i < 25 → ∃ lane : BitVec 5, resolveLane (.index i) = .ok lane ∧ lane.toNat = i) ∧
  (∀ x y, x < 5 → y < 5 → ∃ lane : BitVec 5, resolveLane (.coord x y) = .ok lane ∧ lane.toNat = x + 5 * y) ∧
  (∀ n, n < 2 ^ 64 → ∃ w : Word, resolveImm n = .ok w ∧ w.toNat = n) ∧
  (∀ i, 25 ≤ i → resolveLane (.index i) = .error .laneOutOfRange) ∧
  (∀ x y, 5 ≤ x ∨ 5 ≤ y → resolveLane (.coord x y) = .error .laneOutOfRange) ∧
  (∀ n, 2 ^ 64 ≤ n → resolveImm n = .error .immediateTooWide) ∧
  (∀ l n e, resolveLane l = .error e →
    assemble (.wrl l n) = .error e ∧ assemble (.xrl l n) = .error e ∧ assemble (.rdl l) = .error e) ∧
  (∀ l n lane e, resolveLane l = .ok lane → resolveImm n = .error e →
    assemble (.wrl l n) = .error e ∧ assemble (.xrl l n) = .error e) ∧
  (∀ j n, 200 ≤ j → assemble (.pseudo (.xrb j n)) = .error .byteIndexOutOfRange) ∧
  (∀ j n, j < 200 → 2 ^ 8 ≤ n → assemble (.pseudo (.xrb j n)) = .error .byteTooWide) ∧
  (∀ v : List Word, 25 < v.length → assemble (.pseudo (.xrblk v)) = .error .tooManyLanes) ∧
  (∀ (before after : List AsmLine) (line : AsmLine) (first : Nat) (e : AsmError),
    (∀ l ∈ before, ∃ bs, assemble l = .ok bs) → assemble line = .error e →
    assembleFrom first (before ++ line :: after) = .error (first + before.length, e))

/-- 30_encoding.md R70: a legal line is assembled to `CW = OP<<12 | i` and `D = imm64`, with `D = 0` for a command without
data, its lane written `a<i>` or `a(x,y)`; `.cmd` emits the beat as given; a pseudo-instruction emits the words of its
expansion (R71); a program emits its lines' beats in order. -/
def Obligations.LegalLinesAssembleToTheirWords : Prop :=
  (∀ (l : LaneRef) (i n : Nat), i < 25 → n < 2 ^ 64 →
    (l = .index i ∨ ∃ x y, x < 5 ∧ y < 5 ∧ i = x + 5 * y ∧ l = .coord x y) →
    assemble (.wrl l n) = .ok [{ cw := BitVec.ofNat 16 (0x1 <<< 12 ||| i), d := BitVec.ofNat 64 n }] ∧
    assemble (.xrl l n) = .ok [{ cw := BitVec.ofNat 16 (0x2 <<< 12 ||| i), d := BitVec.ofNat 64 n }] ∧
    assemble (.rdl l) = .ok [{ cw := BitVec.ofNat 16 (0x3 <<< 12 ||| i), d := 0 }]) ∧
  assemble .nop = .ok [{ cw := 0x0000, d := 0 }] ∧ assemble .clr = .ok [{ cw := 0x4000, d := 0 }] ∧
  assemble .perm = .ok [{ cw := 0x5000, d := 0 }] ∧ assemble .rds = .ok [{ cw := 0x6000, d := 0 }] ∧
  (∀ b, assemble (.raw b) = .ok [b]) ∧
  (∀ p is, expandPseudo p = .ok is → assemble (.pseudo p) = .ok (is.map encode)) ∧
  (∀ (first : Nat) (lines : List AsmLine) (words : List (List Beat)),
    List.Forall₂ (fun l bs => assemble l = .ok bs) lines words → assembleFrom first lines = .ok words.flatten)

/-! ## The byte view and the pseudo-instructions -/

/-- 20_memory.md R43: byte `j` of the byte view is bits `8·(j mod 8)+7 : 8·(j mod 8)` of lane `j div 8`. -/
def Obligations.ByteViewIsLittleEndian : Prop :=
  ∀ (A : Lanes) (j : Fin 200),
    (byteView A j).toNat = (A[j.val / 8]'(by omega)).toNat / 2 ^ (8 * (j.val % 8)) % 2 ^ 8

/-- 20_memory.md R44: bit `k` of byte `j` is bit `8j + k` of the 1600-bit string, which is bit `n mod 64` of lane
`n div 64`. -/
def Obligations.BitViewAgreesWithByteView : Prop :=
  ∀ (A : Lanes) (j : Fin 200) (k : Fin 8),
    (byteView A j).getLsbD k.val = bitView A ⟨8 * j.val + k.val, by omega⟩

/-- 30_encoding.md R71, `XRB j, #imm8`: its one command, on a defined lane, XORs `imm8` into byte `j` of the byte view
and leaves every other byte alone. -/
def Obligations.XrbChangesOneByte : Prop :=
  ∀ (s : State) (j : Fin 200) (imm : Byte), s.isDefined (laneOfByte j) = true →
    ∃ i t, expandPseudo (.xrb j.val imm.toNat) = .ok [i] ∧ exec i s = .next t ∧
      ∀ k : Fin 200, byteView t.lanes k = if k = j then byteView s.lanes k ^^^ imm else byteView s.lanes k

/-- 30_encoding.md R71, `LDALL`: from any state, defined lanes or not, its commands load the whole state, define every
lane, and answer 25 success responses. -/
def Obligations.LdallLoadsTheState : Prop :=
  ∀ (s : State) (v : Lanes), ∃ is t, expandPseudo (.ldall v) = .ok is ∧
    runBeats (is.map encode) s = .next t ∧ t.lanes = v ∧ t.booted ∧ t.ctl = .idle ∧
    t.delivered = s.delivered ++ List.replicate 25 { data := 0, err := 0 } ∧
    t = { s with lanes := t.lanes, defined := t.defined, ctl := t.ctl, delivered := t.delivered }

/-- 30_encoding.md R71, `RDALL`: on a booted block its responses are the 25 lanes in lane order, and nothing changes
but the responses. -/
def Obligations.RdallReadsTheState : Prop :=
  ∀ s : State, s.booted → ∃ is t, expandPseudo .rdall = .ok is ∧ runBeats (is.map encode) s = .next t ∧
    t.ctl = .idle ∧ t.delivered = s.delivered ++ s.lanes.toList.map (fun v => { data := v, err := 0 }) ∧
    t = { s with ctl := t.ctl, delivered := t.delivered }

/-- 30_encoding.md R71, `XRBLK` of `k` lanes: where the first `k` lanes are defined its commands XOR `v0 … v(k-1)` into
them in lane order, leave the other lanes and every flag alone, and answer `k` success responses; where `k` is 0 there
is no command, so that the block is taken as IDLE before. -/
def Obligations.XrblkXorsTheFirstLanes : Prop :=
  ∀ (s : State) (v : List Word), v.length ≤ 25 → (v = [] → s.ctl = .idle) →
    (∀ i : LaneIdx, i.val < v.length → s.isDefined i = true) →
    ∃ is t, expandPseudo (.xrblk v) = .ok is ∧ is.length = v.length ∧ runBeats (is.map encode) s = .next t ∧
      (∀ i : LaneIdx, t.lane i = if h : i.val < v.length then s.lane i ^^^ v[i.val] else s.lane i) ∧
      t.ctl = .idle ∧ t.delivered = s.delivered ++ List.replicate v.length { data := 0, err := 0 } ∧
      t = { s with lanes := t.lanes, ctl := t.ctl, delivered := t.delivered }

/-! ## The commands: result and frame -/

/-- NOP (40_lane_access.md R81): in every state, the response (0, 0) and nothing else. -/
def Obligations.NopOnlyResponds : Prop :=
  ∀ s : State, ∃ t, exec .nop s = .next t ∧ t.ctl = .resp { data := 0, err := 0 } ∧ t = { s with ctl := t.ctl }

/-- WRL (R82): lane `i` holds `D` and is defined, whether or not it was; the other 24 lanes and their flags, and all
else but the response (0, 0), are unchanged. -/
def Obligations.WrlWritesOneLane : Prop :=
  ∀ (s : State) (lane : BitVec 5) (d : Word), lane.toNat < 25 →
    ∃ t, exec (.wrl lane d) s = .next t ∧
      (∀ j : LaneIdx, t.lane j = if j.val = lane.toNat then d else s.lane j) ∧
      (∀ j : LaneIdx, t.isDefined j = (s.isDefined j || j.val == lane.toNat)) ∧
      t.ctl = .resp { data := 0, err := 0 } ∧
      t = { s with lanes := t.lanes, defined := t.defined, ctl := t.ctl }

/-- XRL of a defined lane (R83): lane `i` holds `A[i] ⊕ D`; the other lanes, every flag, and all else but the response
(0, 0), are unchanged. -/
def Obligations.XrlXorsADefinedLane : Prop :=
  ∀ (s : State) (i : LaneIdx) (lane : BitVec 5) (d : Word), lane.toNat = i.val → s.isDefined i = true →
    ∃ t, exec (.xrl lane d) s = .next t ∧
      (∀ j : LaneIdx, t.lane j = if j = i then s.lane i ^^^ d else s.lane j) ∧
      t.ctl = .resp { data := 0, err := 0 } ∧ t = { s with lanes := t.lanes, ctl := t.ctl }

/-- XRL of an undefined lane (R83; 60_exceptions.md R136): it completes with the response (0, 0); the lane stays
undefined and holds a free value, the model fault is recorded, and all else is unchanged.  That the model goes on,
and records the fault, is its own choice: notes/assumptions/2.md and 3.md. -/
def Obligations.XrlOfAnUndefinedLane : Prop :=
  ∀ (s : State) (i : LaneIdx) (lane : BitVec 5) (d : Word), lane.toNat = i.val → s.isDefined i = false →
    ∃ t, exec (.xrl lane d) s = .next t ∧
      (∀ j : LaneIdx, t.lane j = if j = i then Config.freeLane s.nextFree else s.lane j) ∧
      t.raised = s.raised.or (some (.unwrittenLane i)) ∧ t.nextFree = s.nextFree + 1 ∧
      t.ctl = .resp { data := 0, err := 0 } ∧
      t = { s with lanes := t.lanes, raised := t.raised, nextFree := t.nextFree, ctl := t.ctl }

/-- RDL (R84): the response is `(A[i], 0)`; of a defined lane nothing else changes; of an undefined lane the model
fault is recorded (notes/assumptions/2.md) and nothing else changes. -/
def Obligations.RdlReturnsTheLane : Prop :=
  ∀ (s : State) (i : LaneIdx) (lane : BitVec 5), lane.toNat = i.val →
    ∃ t, exec (.rdl lane) s = .next t ∧ t.ctl = .resp { data := s.lane i, err := 0 } ∧
      t.raised = (if s.isDefined i then s.raised else s.raised.or (some (.unwrittenLane i))) ∧
      t = { s with ctl := t.ctl, raised := t.raised }

/-- CLR (R85): in every state, all 25 lanes become 0 and defined; STATUS and all else but the response (0, 0) are
unchanged. -/
def Obligations.ClrClearsEveryLane : Prop :=
  ∀ s : State, ∃ t, exec .clr s = .next t ∧ (∀ i : LaneIdx, t.lane i = 0) ∧ t.booted ∧
    t.ctl = .resp { data := 0, err := 0 } ∧ t = { s with lanes := t.lanes, defined := t.defined, ctl := t.ctl }

/-- RDS (R86; 10_state.md R26): the response is STATUS: bit 0 ILLEGAL, bits 2:1 CAUSE, bits 63:3 zero; nothing else
changes, STATUS included. -/
def Obligations.RdsReturnsStatus : Prop :=
  ∀ s : State, ∃ t w, exec .rds s = .next t ∧ t.ctl = .resp { data := w, err := 0 } ∧
    w.getLsbD 0 = s.status.illegal ∧ w.extractLsb' 1 2 = s.status.cause ∧ (∀ k, 3 ≤ k → w.getLsbD k = false) ∧
    t = { s with ctl := t.ctl }

/-- PERM with every lane defined (41_permutation.md R110): all 25 lanes are replaced by `KeccakF1600` of them and stay
defined; all else but the response (0, 0) is unchanged. -/
def Obligations.PermAppliesKeccakF : Prop :=
  ∀ s : State, s.booted → ∃ t, exec .perm s = .next t ∧ t.lanes = keccakF s.lanes ∧ t.defined = s.defined ∧
    t.ctl = .resp { data := 0, err := 0 } ∧ t = { s with lanes := t.lanes, ctl := t.ctl }

/-- PERM with lane `i` the lowest undefined one (R110; 60_exceptions.md R136): it completes with the response (0, 0);
every lane becomes undefined and holds a free value, the model fault is recorded, and all else is unchanged.  That the
model goes on, and names the lowest lane, is its own choice: notes/assumptions/2.md and 3.md. -/
def Obligations.PermWithAnUndefinedLane : Prop :=
  ∀ (s : State) (i : LaneIdx), s.isDefined i = false → (∀ j : LaneIdx, j < i → s.isDefined j = true) →
    ∃ t, exec .perm s = .next t ∧
      (∀ j : LaneIdx, t.isDefined j = false ∧ t.lane j = Config.freeLane (s.nextFree + j.val)) ∧
      t.raised = s.raised.or (some (.unwrittenLane i)) ∧ t.nextFree = s.nextFree + 25 ∧
      t.ctl = .resp { data := 0, err := 0 } ∧
      t = { s with lanes := t.lanes, defined := t.defined, raised := t.raised, nextFree := t.nextFree, ctl := t.ctl }

/-- exec of a WRL, XRL or RDL whose lane field is 25..31, an operand that decode never makes, so that no step reaches it:
that it is the illegal command with cause 3 is the MODEL'S CHOICE, notes/assumptions/15.md, after what R82 to R84 say of
the word.  The response is (0, 3), the first cause is kept, and nothing else changes.  The words themselves are the
subject of DecodeChecksInOrder and IllegalCommandOnlySetsStatus. -/
def Obligations.ReservedLanesAreIllegal : Prop :=
  ∀ (s : State) (lane : BitVec 5) (d : Word) (i : Instr), 25 ≤ lane.toNat →
    i = .wrl lane d ∨ i = .xrl lane d ∨ i = .rdl lane →
    ∃ t, exec i s = .next t ∧ t.ctl = .resp { data := 0, err := 3 } ∧ t.status.illegal = true ∧
      t.status.cause = (if s.status.illegal then s.status.cause else 3) ∧
      t = { s with ctl := t.ctl, status := t.status }

/-- An illegal command with cause `c` (60_exceptions.md R131): the response is (0, c); ILLEGAL is set and the first
cause kept; no lane or flag of a lane changes, and the permutation does not run. -/
def Obligations.IllegalCommandOnlySetsStatus : Prop :=
  ∀ (s : State) (b : Beat) (c : Cause), decode b.cw b.d = .illegal c →
    ∃ t code, execBeat b s = .next t ∧ t.ctl = .resp { data := 0, err := code } ∧
      code.toNat = (match c with | .badOp => 1 | .badField => 2 | .badLane => 3) ∧
      t.status.illegal = true ∧ t.status.cause = (if s.status.illegal then s.status.cause else code) ∧
      t = { s with ctl := t.ctl, status := t.status }

/-- 30_encoding.md R66, the response of every command: RDL its lane, RDS STATUS, the other legal commands 0, all with
`rsp_err = 0`; an illegal command data 0 and its cause, 1, 2 or 3. -/
def Obligations.ResponseFormat : Prop :=
  ∀ (s : State) (b : Beat), ∃ t r, execBeat b s = .next t ∧ t.ctl = .resp r ∧
    match decode b.cw b.d with
    | .cmd (.rdl lane) => r.err = 0 ∧ ∃ i : LaneIdx, i.val = lane.toNat ∧ r.data = s.lane i
    | .cmd .rds => r.err = 0 ∧ r.data = s.status.word
    | .cmd _ => r.err = 0 ∧ r.data = 0
    | .illegal .badOp => r.err = 1 ∧ r.data = 0
    | .illegal .badField => r.err = 2 ∧ r.data = 0
    | .illegal .badLane => r.err = 3 ∧ r.data = 0

/-- 20_memory.md R53: XRL twice with the same data restores the lanes, and WRL and CLR are idempotent. -/
def Obligations.RepeatedWrites : Prop :=
  (∀ (s : State) (i : LaneIdx) (lane : BitVec 5) (d : Word), lane.toNat = i.val → s.isDefined i = true →
    ∃ t u, exec (.xrl lane d) s = .next t ∧ exec (.xrl lane d) t = .next u ∧ u.lanes = s.lanes) ∧
  (∀ (s : State) (lane : BitVec 5) (d : Word), lane.toNat < 25 →
    ∃ t, exec (.wrl lane d) s = .next t ∧ exec (.wrl lane d) t = .next t) ∧
  (∀ s : State, ∃ t, exec .clr s = .next t ∧ exec .clr t = .next t)

/-! ## The permutation -/

/-- 41_permutation.md R102: the rotation as shifts mod 2^64, by `n mod 64`; by 0 and by 64 it is the identity; bit `z`
of the result is bit `(z - n) mod 64` of the value. -/
def Obligations.Rotl64IsACircularShift : Prop :=
  ∀ (v : Word) (n : Nat),
    (rotl64 v n).toNat = ((v.toNat <<< (n % 64)) ||| (v.toNat >>> (64 - n % 64))) % 2 ^ 64 ∧
    rotl64 v 0 = v ∧ rotl64 v 64 = v ∧ rotl64 v n = rotl64 v (n % 64) ∧
    ∀ z, z < 64 → (rotl64 v n).getLsbD z = v.getLsbD ((z + (64 - n % 64)) % 64)

/-- R103: theta, with all five parities of the state before it. -/
def Obligations.ThetaLaw : Prop :=
  ∀ (A : Lanes) (C D : Nat → Word),
    (∀ x, x < 5 → C x = A[laneAt x 0] ^^^ A[laneAt x 1] ^^^ A[laneAt x 2] ^^^ A[laneAt x 3] ^^^ A[laneAt x 4]) →
    (∀ x, x < 5 → D x = C ((x + 4) % 5) ^^^ rotl64 (C ((x + 1) % 5)) 1) →
    ∀ i : LaneIdx, (theta A)[i] = A[i] ^^^ D (i.val % 5)

/-- R103, the corner of 95_test_vectors.md V-T3: a state whose every column has even parity is unchanged. -/
def Obligations.ThetaFixesEvenColumns : Prop :=
  ∀ A : Lanes,
    (∀ x, x < 5 → A[laneAt x 0] ^^^ A[laneAt x 1] ^^^ A[laneAt x 2] ^^^ A[laneAt x 3] ^^^ A[laneAt x 4] = 0) →
    theta A = A

/-- R104: rho rotates lane `i` by `RHO[i]`; lane (0,0) is unchanged. -/
def Obligations.RhoLaw : Prop :=
  ∀ A : Lanes, (∀ i : LaneIdx, (rho A)[i] = rotl64 A[i] RHO[i]) ∧ (rho A)[laneAt 0 0] = A[laneAt 0 0]

/-- R105: pi moves the lane at `(x, y)` to `(y, 2x + 3y)`; equivalently the lane at `(x, y)` comes from `(x + 3y, x)`;
lane (0,0) is the only fixed position. -/
def Obligations.PiLaw : Prop :=
  ∀ A : Lanes,
    (∀ x y, x < 5 → y < 5 → (pi A)[laneAt y (2 * x + 3 * y)] = A[laneAt x y]) ∧
    (∀ x y, x < 5 → y < 5 → (pi A)[laneAt x y] = A[laneAt (x + 3 * y) x]) ∧
    (∀ x y, x < 5 → y < 5 → (laneAt y (2 * x + 3 * y) = laneAt x y ↔ x = 0 ∧ y = 0))

/-- R106: chi, every operand a lane of the state before it, and rows independent of each other. -/
def Obligations.ChiLaw : Prop :=
  (∀ (A : Lanes) (x y : Nat), x < 5 → y < 5 →
    (chi A)[laneAt x y] = A[laneAt x y] ^^^ (~~~ A[laneAt (x + 1) y] &&& A[laneAt (x + 2) y])) ∧
  (∀ (A B : Lanes) (y : Nat), y < 5 → (∀ x, x < 5 → A[laneAt x y] = B[laneAt x y]) →
    ∀ x, x < 5 → (chi A)[laneAt x y] = (chi B)[laneAt x y])

/-- R107: iota XORs lane 0 with the round's constant and changes no other lane; hence it is its own inverse
(95_test_vectors.md V-IO).  And R100: the constant of every round, as the table of the model has it, is the word R100's
generator gives; bit `z` of it is set exactly when `z = 2^j - 1` for a `j` in 0..6 and `rc(j + 7·ir)` is 1.  The values
are the spec's from general knowledge, PRESUMED, notes/assumptions/12.md. -/
def Obligations.IotaLaw : Prop :=
  (∀ (A : Lanes) (ir : RoundIdx),
    (iota A ir)[laneAt 0 0] = A[laneAt 0 0] ^^^ RC ir ∧ (∀ i : LaneIdx, i ≠ 0 → (iota A ir)[i] = A[i]) ∧
    iota (iota A ir) ir = A) ∧
  (∀ ir : RoundIdx, RC ir = generatedRC ir.val) ∧
  (∀ (ir : RoundIdx) (z : Fin 64),
    (RC ir).getLsbD z.val = true ↔ ∃ j : Fin 7, z.val = 2 ^ j.val - 1 ∧ lfsrBit (j.val + 7 * ir.val) = true)

/-- R108 and R109: the permutation is the 24 rounds in increasing round index, each theta, rho, pi, chi, iota in that
order: whatever sequence of states starts at `A` and follows the rounds ends in `KeccakF1600(A)`. -/
def Obligations.KeccakIsTwentyFourRounds : Prop :=
  ∀ f : Nat → Lanes, (∀ ir : RoundIdx, f (ir.val + 1) = iota (chi (pi (rho (theta (f ir.val))))) ir) →
    keccakF (f 0) = f 24

/-- R113: rho and pi together, per source lane: where it goes and by how much it is rotated. -/
def Obligations.CombinedRhoPiTable : Prop :=
  ∀ A : Lanes, ∀ row ∈ ([(0, 0, 0), (1, 10, 1), (2, 20, 62), (3, 5, 28), (4, 15, 27), (5, 16, 36), (6, 1, 44), (7, 11, 6),
      (8, 21, 55), (9, 6, 20), (10, 7, 3), (11, 17, 10), (12, 2, 43)] ++
      [(13, 12, 25), (14, 22, 39), (15, 23, 41), (16, 8, 45), (17, 18, 15), (18, 3, 21), (19, 13, 8), (20, 14, 18),
      (21, 24, 2), (22, 9, 61), (23, 19, 56), (24, 4, 14)] : List (LaneIdx × LaneIdx × Nat)),
    (pi (rho A))[row.2.1] = rotl64 A[row.1] row.2.2

/-- R112: the walk from lane 1 visits every other position but lane 0 once, each entry the destination of the one
before it, the last going back to 1; its rotation offsets are the triangular numbers mod 64; and the in-place walk,
plain or with rho merged into it, is pi, or rho followed by pi. -/
def Obligations.PiWalkIsPi : Prop :=
  piCycle.length = 24 ∧ piCycle.Nodup ∧ (0 : LaneIdx) ∉ piCycle ∧
  (∀ k, k < 23 → laneAt (row (piCycle.getD k 0)) (2 * col (piCycle.getD k 0) + 3 * row (piCycle.getD k 0)) =
    piCycle.getD (k + 1) 0) ∧
  piCycle.getD 23 0 = 1 ∧ laneAt (row 1) (2 * col 1 + 3 * row 1) = piCycle.getD 0 0 ∧
  (∀ t, t < 24 → RHO[(1 :: piCycle).getD t 0] = (t + 1) * (t + 2) / 2 % 64) ∧
  (∀ A : Lanes, piInPlace A = pi A) ∧ (∀ A : Lanes, rhoPiInPlace A = pi (rho A))

/-- 70_reset_and_hazards.md R157: the permutation updated in place, lane by lane, with theta's parities first, pi's
temporary and chi's row snapshot, is the permutation, step by step and as a whole.  The ORDERS in which lanes and rows
are updated are the model's choice, notes/assumptions/17.md: R157 fixes what must be held, not the order. -/
def Obligations.InPlaceKeccakIsKeccak : Prop :=
  (∀ A : Lanes, thetaInPlace A = theta A) ∧ (∀ A : Lanes, rhoInPlace A = rho A) ∧ (∀ A : Lanes, chiInPlace A = chi A) ∧
  (∀ (A : Lanes) (ir : RoundIdx), roundInPlace A ir = keccakRound A ir) ∧ (∀ A : Lanes, keccakInPlace A = keccakF A)

/-! ## The port, reset and the whole machine -/

/-- A step runs the decoded command (30_encoding.md R65, 40_lane_access.md R80): in EXEC, with no reset at the edge and
a host that keeps its duty, the step is the rule of the command the accepted word decodes to, at the state whose host
has moved on by one edge.  That ONE edge completes the operation, whatever its latency, is notes/assumptions/4.md
(DEDUCED); what becomes of `inputs` and `held` is the model's bookkeeping of the host, notes/assumptions/5.md and 6.md. -/
def Obligations.StepRunsTheDecodedCommand : Prop :=
  ∀ (s : State) (b : Beat) (i : Instr), s.ctl = .exec b → s.pins.rst = false → s.hostKeepsDuty = true →
    decode b.cw b.d = .cmd i →
    step s = exec i { s with inputs := s.inputs.tail, held := s.pins.cmd }

/-- Placing a table row's word makes the very next step run its command, at a state with the block's own state
unchanged but for the controller. -/
def Obligations.FetchWordRunsNext : Prop :=
  ∀ (s : State) (nbits w : Nat) (i : Instr), decodeTableWord nbits w = some i →
    ∃ u, step (s.withFetchWord nbits w) = exec i u ∧
      u = { s with ctl := u.ctl, inputs := s.inputs.tail, held := s.pins.cmd }

/-- 30_encoding.md R65, IDLE and RESP: a command on the pins is accepted when IDLE; the response is held until
`rsp_ready`, then taken, and the block is IDLE. -/
def Obligations.PortHandshake : Prop :=
  ∀ s : State, s.pins.rst = false → s.hostKeepsDuty = true →
    (∀ b, s.ctl = .idle → s.pins.cmd = some b →
      step s = .next { s with ctl := .exec b, inputs := s.inputs.tail, held := none }) ∧
    (s.ctl = .idle → s.pins.cmd = none → step s = .next { s with inputs := s.inputs.tail, held := none }) ∧
    (∀ r, s.ctl = .resp r → s.pins.rspReady = true →
      step s = .next { s with ctl := .idle, delivered := s.delivered ++ [r], inputs := s.inputs.tail, held := s.pins.cmd }) ∧
    (∀ r, s.ctl = .resp r → s.pins.rspReady = false →
      step s = .next { s with inputs := s.inputs.tail, held := s.pins.cmd })

/-- 30_encoding.md R64: `cmd_ready` is 1 exactly when IDLE and not in reset; `rsp_valid` is 1, with the held response
beside it, exactly when RESP; `status_o` is `STATUS[2:0]`.  And 70_reset_and_hazards.md R151, with R150's `rsp_valid <- 0`:
once an edge has sampled `rst = 1`, the response is no longer shown, it has not been handed to the host, nothing has been
accepted, and `cmd_ready` is 0 while `rst` stays 1.  That R151's "while `rst = 1`" begins at the edge that samples `rst`
is the model's reading, notes/assumptions/7.md (DEDUCED, unsafe for a claim about `rsp_valid` before that edge). -/
def Obligations.OutputPins : Prop :=
  ∀ s : State,
    (s.outputs.cmdReady = true ↔ s.ctl = .idle ∧ s.pins.rst = false) ∧
    (∀ r, s.outputs.rsp = some r ↔ s.ctl = .resp r) ∧
    s.outputs.statusO.getLsbD 0 = s.status.illegal ∧ s.outputs.statusO.extractLsb' 1 2 = s.status.cause ∧
    (s.pins.rst = true → s.outputs.cmdReady = false ∧
      ∃ t, step s = .next t ∧ t.outputs.rsp = none ∧ t.delivered = s.delivered ∧ (∀ b, t.ctl ≠ .exec b) ∧
        (t.pins.rst = true → t.outputs.cmdReady = false))

/-- 70_reset_and_hazards.md R150, R152: at an edge with `rst = 1`, whatever the controller was doing, the block becomes
IDLE with nothing accepted and no response shown or delivered, STATUS is 0, and every lane is undefined, even one that
was defined. -/
def Obligations.ResetEdge : Prop :=
  ∀ s : State, s.pins.rst = true →
    s.outputs.cmdReady = false ∧
    ∃ t, step s = .next t ∧ t.ctl = .idle ∧ t.ctl.response = none ∧ t.outputs.rsp = none ∧ t.status.word = 0 ∧
      (∀ i : LaneIdx, t.isDefined i = false) ∧ t.delivered = s.delivered

/-- What the reset edge leaves of the state the spec gives no reset value for (the model's choice,
notes/assumptions/1.md, 14.md): every lane holds a fresh free value, and a raised model fault stays. -/
def Obligations.ResetEdgeFreesTheLanes : Prop :=
  ∀ s : State, s.pins.rst = true → ∃ t, step s = .next t ∧
    (∀ i : LaneIdx, t.lane i = Config.freeLane (s.nextFree + i.val)) ∧ t.nextFree = s.nextFree + 25 ∧
    t.raised = s.raised ∧ t.inputs = s.inputs.tail ∧ t.held = s.pins.cmd

/-- 10_state.md R29: after reset the block is IDLE, STATUS is 0, no response is held, and every lane is undefined. -/
def Obligations.ResetValues : Prop :=
  State.reset.ctl = .idle ∧ State.reset.status.illegal = false ∧ State.reset.status.cause = 0 ∧
  State.reset.status.word = 0 ∧ State.reset.outputs.rsp = none ∧ ∀ i : LaneIdx, State.reset.isDefined i = false

/-- The invariant (10_state.md R26; 30_encoding.md R66) holds right after reset. -/
def Obligations.ResetMeetsTheInvariant : Prop := State.reset.inv

/-- Every step keeps the invariant: CAUSE is 0 exactly while ILLEGAL is 0, and every response, held or taken, carries
no data with an error, an error in the response register having set ILLEGAL. -/
def Obligations.StepKeepsTheInvariant : Prop := ∀ s t : State, s.inv → step s = .next t → t.inv

/-- 60_exceptions.md R135: no command clears ILLEGAL or CAUSE once set, CLR and RDS included; only reset does, and it
does; an illegal command while ILLEGAL is 1 gets its own error response and CAUSE keeps the first cause. -/
def Obligations.StatusIsSticky : Prop :=
  (∀ s t : State, step s = .next t → s.pins.rst = false → s.status.illegal = true → t.status = s.status) ∧
  (∀ s t : State, step s = .next t → s.pins.rst = true → t.status.illegal = false ∧ t.status.cause = 0) ∧
  (∀ (s : State) (b : Beat) (c : Cause), decode b.cw b.d = .illegal c → s.status.illegal = true →
    ∃ t, execBeat b s = .next t ∧ t.status = s.status ∧ t.ctl = .resp { data := 0, err := causeCode c })

/-- 10_state.md R26: without reset, only the completion of an illegal command changes STATUS. -/
def Obligations.OnlyIllegalCommandsChangeStatus : Prop :=
  ∀ s t : State, step s = .next t → s.pins.rst = false → t.status ≠ s.status →
    ∃ b c, s.ctl = .exec b ∧ decode b.cw b.d = .illegal c

/-- 10_state.md R31, 20_memory.md R46: without reset, the lanes and their flags change only when a legal WRL, XRL, CLR
or PERM completes, and WRL and XRL change their own lane at most. -/
def Obligations.OnlyLaneCommandsChangeLanes : Prop :=
  ∀ s t : State, step s = .next t → s.pins.rst = false → (t.lanes ≠ s.lanes ∨ t.defined ≠ s.defined) →
    ∃ b i, s.ctl = .exec b ∧ decode b.cw b.d = .cmd i ∧
      (i = .clr ∨ i = .perm ∨ ∃ lane d, (i = .wrl lane d ∨ i = .xrl lane d) ∧
        ∀ j : LaneIdx, j.val ≠ lane.toNat → t.lane j = s.lane j ∧ t.isDefined j = s.isDefined j)

/-- 60_exceptions.md R136: a raised model fault is never cleared, by a command or by reset. -/
def Obligations.FaultsAreNeverCleared : Prop :=
  ∀ (s t : State) (f : Fault), s.raised = some f → step s = .next t → t.raised = some f

/-- The block never hangs (70_reset_and_hazards.md R155, R156; 60_exceptions.md R131): a step fails to answer a next state
exactly when, without reset, the host has changed or withdrawn a command it had offered (R154); that it is refused then,
and how the duty is kept, is notes/assumptions/6.md (DEDUCED).  That no step FAULTS, even one that touches an undefined
lane, where 60_exceptions.md R136 asks a model to raise `UnwrittenLane`, is the model's choice, notes/assumptions/2.md
(DESIGN CHOICE): the fault is recorded, and `strictStep` is the step that stops on it. -/
def Obligations.OnlyABrokenDutyStopsTheStep : Prop :=
  ∀ s : State,
    ((∃ t, step s = .next t) ∨ step s = .refused .hostDutyBroken) ∧
    (step s = .refused .hostDutyBroken ↔ s.pins.rst = false ∧ ∃ b, s.held = some b ∧ s.pins.cmd ≠ some b)

/-- 70_reset_and_hazards.md R153, 10_state.md R22: once all 25 lanes are defined they stay so until a reset, and no
command raises a model fault or uses a free value. -/
def Obligations.BootedStaysBooted : Prop :=
  ∀ s t : State, s.booted → s.pins.rst = false → step s = .next t →
    t.booted ∧ t.raised = s.raised ∧ t.nextFree = s.nextFree

/-- 60_exceptions.md R136: with no fault raised before, the strict step stops with `UnwrittenLane(i)` exactly when the
command completing is RDL or XRL of the undefined lane `i`, or PERM with `i` the lowest undefined lane.  R136 raises it
for PERM with ANY undefined lane; that the LOWEST one is named, and no other, is the model's choice,
notes/assumptions/2.md (DESIGN CHOICE), as is that the fault is a stop of `strictStep` and a record of `step`. -/
def Obligations.StrictStepFaultsOnUndefinedLanes : Prop :=
  ∀ (s : State) (b : Beat), s.raised = none → s.ctl = .exec b → s.pins.rst = false → s.hostKeepsDuty = true →
    ∀ i : LaneIdx, (strictStep s = .fault (.unwrittenLane i) ↔
      s.isDefined i = false ∧
        ((∃ lane, lane.toNat = i.val ∧ decode b.cw b.d = .cmd (.rdl lane)) ∨
          (∃ lane d, lane.toNat = i.val ∧ decode b.cw b.d = .cmd (.xrl lane d)) ∨
          (decode b.cw b.d = .cmd .perm ∧ ∀ j : LaneIdx, j < i → s.isDefined j = true)))

/-- 92_eei_decisions.md D8 and D10: a strict step that does not fault depends on nothing the spec leaves unspecified:
from states that differ only in the contents of undefined lanes it gives states that differ only so. -/
def Obligations.StrictStepIgnoresUnspecifiedLanes : Prop :=
  ∀ s s' t : State, s.agree s' → strictStep s = .next t → ∃ t', strictStep s' = .next t' ∧ t.agree t'

/-- 70_reset_and_hazards.md R154, 93_implementation_defined.md U7: for as many edges as the host does not take the
response, it is held, and the block accepts nothing further, whatever the host offers and keeps offering meanwhile: at
each of them `cmd_ready` is 0, and lanes, flags, STATUS and the responses taken stay as they were.  The pins are the
host's plan, at rest when it has run out, and the offer that is due is `held`: notes/assumptions/5.md and 6.md. -/
def Obligations.UntakenResponseIsHeld : Prop :=
  ∀ (s : State) (r : Response) (n : Nat), s.ctl = .resp r → s.keepsOffer n →
    (∀ k, k < n → (s.pinsAt k).rst = false ∧ (s.pinsAt k).rspReady = false) →
    ∃ t, runSteps n s = .next t ∧ t.ctl = .resp r ∧ t.outputs.cmdReady = false ∧
      t = { s with inputs := s.inputs.drop n, held := t.held } ∧
      t.held = (match n with | 0 => s.held | m + 1 => (s.pinsAt m).cmd)

/-- 20_memory.md R46 to R48, 30_encoding.md R65: a host that offers the commands of a list one after the other and
takes each response gets, three steps a command, exactly what performing them as atomic steps in that order gives. -/
def Obligations.SequencesRunAtomicallyInOrder : Prop :=
  ∀ (bs : List Beat) (s : State), s.ctl = .idle → s.held = none → s.inputs = hostPlan bs →
    runSteps (3 * bs.length) s = runBeats bs { s with inputs := [] }

/-- 30_encoding.md R65: every sequence of commands, legal or not, completes, and every command gets exactly one
response; the block is IDLE again after the last. -/
def Obligations.OneResponsePerCommand : Prop :=
  ∀ (bs : List Beat) (s : State), s.ctl = .idle → ∃ t rs, runBeats bs s = .next t ∧ t.ctl = .idle ∧
    t.delivered = s.delivered ++ rs ∧ rs.length = bs.length

/-- 70_reset_and_hazards.md R156, 00_scope.md R10: for every pair of latencies, a command accepted at one edge is still
in EXEC until its latency is over, and exactly then its response is held, the state being that of the atomic step.
Which edges the latency counts is notes/assumptions/16.md (DEDUCED): those after the accepting one. -/
def Obligations.ResponseComesAfterTheLatency : Prop :=
  ∀ (L : Config.Latency) (s : State) (b : Beat), s.ctl = .idle → s.held = none →
    s.inputs = [{ rst := false, cmd := some b, rspReady := false }] →
    (∀ j, j < latencyOf L b → ∃ t, ticks L (j + 1) { core := s, left := 0 } = .next t ∧ t.core.ctl = .exec b ∧
      t.core.lanes = s.lanes) ∧
    ∃ t v, ticks L (latencyOf L b + 1) { core := s, left := 0 } = .next t ∧ t.core = v ∧
      execBeat b { s with ctl := .exec b, inputs := [] } = .next v

/-- 60_exceptions.md R138: a step of one block changes no other block. -/
def Obligations.BlocksShareNothing : Prop :=
  ∀ (k : Nat) (blocks after : Blocks), stepBlock k blocks = some (.next after) →
    after.length = blocks.length ∧ (∀ j, j ≠ k → after[j]? = blocks[j]?) ∧
    ∃ s t, blocks[k]? = some s ∧ step s = .next t ∧ after[k]? = some t
end

