-- ==== Sys2Proof/Laws/State.lean ====
section
/-! SUPPORT. One lemma per field per state update, true by rfl, so that no proof unfolds a record update. -/

namespace Sys2Proof.Machine

variable (s : State)

/-- A controller state shows a response exactly when it is RESP with that response. -/
theorem Ctl.response_eq_some {c : Ctl} {r : Response} : c.response = some r ↔ c = .resp r := by
  cases c <;> simp [Ctl.response]

@[simp] theorem State.outputs_cmdReady : s.outputs.cmdReady = s.cmdReady := rfl
@[simp] theorem State.outputs_rsp : s.outputs.rsp = s.ctl.response := rfl
@[simp] theorem State.outputs_statusO : s.outputs.statusO = s.status.pins := rfl


@[simp] theorem State.setLane_lanes (i : LaneIdx) (v : Word) : (s.setLane i v).lanes = s.lanes.set i v := rfl
@[simp] theorem State.setLane_defined (i : LaneIdx) (v : Word) : (s.setLane i v).defined = s.defined := rfl
@[simp] theorem State.setLane_ctl (i : LaneIdx) (v : Word) : (s.setLane i v).ctl = s.ctl := rfl
@[simp] theorem State.setLane_status (i : LaneIdx) (v : Word) : (s.setLane i v).status = s.status := rfl
@[simp] theorem State.setLane_raised (i : LaneIdx) (v : Word) : (s.setLane i v).raised = s.raised := rfl
@[simp] theorem State.setLane_nextFree (i : LaneIdx) (v : Word) : (s.setLane i v).nextFree = s.nextFree := rfl
@[simp] theorem State.setLane_inputs (i : LaneIdx) (v : Word) : (s.setLane i v).inputs = s.inputs := rfl
@[simp] theorem State.setLane_held (i : LaneIdx) (v : Word) : (s.setLane i v).held = s.held := rfl
@[simp] theorem State.setLane_delivered (i : LaneIdx) (v : Word) : (s.setLane i v).delivered = s.delivered := rfl

@[simp] theorem State.define_lanes (i : LaneIdx) : (s.define i).lanes = s.lanes := rfl
@[simp] theorem State.define_defined (i : LaneIdx) : (s.define i).defined = s.defined.set i true := rfl
@[simp] theorem State.define_ctl (i : LaneIdx) : (s.define i).ctl = s.ctl := rfl
@[simp] theorem State.define_status (i : LaneIdx) : (s.define i).status = s.status := rfl
@[simp] theorem State.define_raised (i : LaneIdx) : (s.define i).raised = s.raised := rfl
@[simp] theorem State.define_nextFree (i : LaneIdx) : (s.define i).nextFree = s.nextFree := rfl
@[simp] theorem State.define_inputs (i : LaneIdx) : (s.define i).inputs = s.inputs := rfl
@[simp] theorem State.define_held (i : LaneIdx) : (s.define i).held = s.held := rfl
@[simp] theorem State.define_delivered (i : LaneIdx) : (s.define i).delivered = s.delivered := rfl

@[simp] theorem State.loadLanes_lanes (A : Lanes) : (s.loadLanes A).lanes = A := rfl
@[simp] theorem State.loadLanes_defined (A : Lanes) : (s.loadLanes A).defined = tabulate fun _ => true := rfl
@[simp] theorem State.loadLanes_ctl (A : Lanes) : (s.loadLanes A).ctl = s.ctl := rfl
@[simp] theorem State.loadLanes_status (A : Lanes) : (s.loadLanes A).status = s.status := rfl
@[simp] theorem State.loadLanes_raised (A : Lanes) : (s.loadLanes A).raised = s.raised := rfl
@[simp] theorem State.loadLanes_nextFree (A : Lanes) : (s.loadLanes A).nextFree = s.nextFree := rfl
@[simp] theorem State.loadLanes_inputs (A : Lanes) : (s.loadLanes A).inputs = s.inputs := rfl
@[simp] theorem State.loadLanes_held (A : Lanes) : (s.loadLanes A).held = s.held := rfl
@[simp] theorem State.loadLanes_delivered (A : Lanes) : (s.loadLanes A).delivered = s.delivered := rfl

@[simp] theorem State.respond_lanes (data : Word) (err : BitVec 2) : (s.respond data err).lanes = s.lanes := rfl
@[simp] theorem State.respond_defined (data : Word) (err : BitVec 2) : (s.respond data err).defined = s.defined := rfl
@[simp] theorem State.respond_ctl (data : Word) (err : BitVec 2) :
    (s.respond data err).ctl = .resp { data, err } := rfl
@[simp] theorem State.respond_status (data : Word) (err : BitVec 2) : (s.respond data err).status = s.status := rfl
@[simp] theorem State.respond_raised (data : Word) (err : BitVec 2) : (s.respond data err).raised = s.raised := rfl
@[simp] theorem State.respond_nextFree (data : Word) (err : BitVec 2) :
    (s.respond data err).nextFree = s.nextFree := rfl
@[simp] theorem State.respond_inputs (data : Word) (err : BitVec 2) : (s.respond data err).inputs = s.inputs := rfl
@[simp] theorem State.respond_held (data : Word) (err : BitVec 2) : (s.respond data err).held = s.held := rfl
@[simp] theorem State.respond_delivered (data : Word) (err : BitVec 2) :
    (s.respond data err).delivered = s.delivered := rfl

@[simp] theorem State.raiseFault_lanes (f : Fault) : (s.raiseFault f).lanes = s.lanes := rfl
@[simp] theorem State.raiseFault_defined (f : Fault) : (s.raiseFault f).defined = s.defined := rfl
@[simp] theorem State.raiseFault_ctl (f : Fault) : (s.raiseFault f).ctl = s.ctl := rfl
@[simp] theorem State.raiseFault_status (f : Fault) : (s.raiseFault f).status = s.status := rfl
@[simp] theorem State.raiseFault_raised (f : Fault) : (s.raiseFault f).raised = s.raised.or (some f) := rfl
@[simp] theorem State.raiseFault_nextFree (f : Fault) : (s.raiseFault f).nextFree = s.nextFree := rfl
@[simp] theorem State.raiseFault_inputs (f : Fault) : (s.raiseFault f).inputs = s.inputs := rfl
@[simp] theorem State.raiseFault_held (f : Fault) : (s.raiseFault f).held = s.held := rfl
@[simp] theorem State.raiseFault_delivered (f : Fault) : (s.raiseFault f).delivered = s.delivered := rfl

@[simp] theorem State.freeOne_lanes (i : LaneIdx) :
    (s.freeOne i).lanes = s.lanes.set i (Config.freeLane s.nextFree) := rfl
@[simp] theorem State.freeOne_defined (i : LaneIdx) : (s.freeOne i).defined = s.defined := rfl
@[simp] theorem State.freeOne_ctl (i : LaneIdx) : (s.freeOne i).ctl = s.ctl := rfl
@[simp] theorem State.freeOne_status (i : LaneIdx) : (s.freeOne i).status = s.status := rfl
@[simp] theorem State.freeOne_raised (i : LaneIdx) : (s.freeOne i).raised = s.raised := rfl
@[simp] theorem State.freeOne_nextFree (i : LaneIdx) : (s.freeOne i).nextFree = s.nextFree + 1 := rfl
@[simp] theorem State.freeOne_inputs (i : LaneIdx) : (s.freeOne i).inputs = s.inputs := rfl
@[simp] theorem State.freeOne_held (i : LaneIdx) : (s.freeOne i).held = s.held := rfl
@[simp] theorem State.freeOne_delivered (i : LaneIdx) : (s.freeOne i).delivered = s.delivered := rfl

@[simp] theorem State.freeAll_lanes :
    (s.freeAll).lanes = tabulate fun i => Config.freeLane (s.nextFree + i.val) := rfl
@[simp] theorem State.freeAll_defined : (s.freeAll).defined = tabulate fun _ => false := rfl
@[simp] theorem State.freeAll_ctl : (s.freeAll).ctl = s.ctl := rfl
@[simp] theorem State.freeAll_status : (s.freeAll).status = s.status := rfl
@[simp] theorem State.freeAll_raised : (s.freeAll).raised = s.raised := rfl
@[simp] theorem State.freeAll_nextFree : (s.freeAll).nextFree = s.nextFree + 25 := rfl
@[simp] theorem State.freeAll_inputs : (s.freeAll).inputs = s.inputs := rfl
@[simp] theorem State.freeAll_held : (s.freeAll).held = s.held := rfl
@[simp] theorem State.freeAll_delivered : (s.freeAll).delivered = s.delivered := rfl

@[simp] theorem State.raiseIllegal_lanes (c : Cause) : (s.raiseIllegal c).lanes = s.lanes := rfl
@[simp] theorem State.raiseIllegal_defined (c : Cause) : (s.raiseIllegal c).defined = s.defined := rfl
@[simp] theorem State.raiseIllegal_ctl (c : Cause) :
    (s.raiseIllegal c).ctl = .resp { data := 0, err := causeCode c } := rfl
@[simp] theorem State.raiseIllegal_status (c : Cause) : (s.raiseIllegal c).status = s.status.record c := rfl
@[simp] theorem State.raiseIllegal_raised (c : Cause) : (s.raiseIllegal c).raised = s.raised := rfl
@[simp] theorem State.raiseIllegal_nextFree (c : Cause) : (s.raiseIllegal c).nextFree = s.nextFree := rfl
@[simp] theorem State.raiseIllegal_inputs (c : Cause) : (s.raiseIllegal c).inputs = s.inputs := rfl
@[simp] theorem State.raiseIllegal_held (c : Cause) : (s.raiseIllegal c).held = s.held := rfl
@[simp] theorem State.raiseIllegal_delivered (c : Cause) : (s.raiseIllegal c).delivered = s.delivered := rfl

@[simp] theorem State.resetAction_lanes :
    (s.resetAction).lanes = tabulate fun i => Config.freeLane (s.nextFree + i.val) := rfl
@[simp] theorem State.resetAction_defined : (s.resetAction).defined = tabulate fun _ => false := rfl
@[simp] theorem State.resetAction_ctl : (s.resetAction).ctl = .idle := rfl
@[simp] theorem State.resetAction_status : (s.resetAction).status = .clear := rfl
@[simp] theorem State.resetAction_raised : (s.resetAction).raised = s.raised := rfl
@[simp] theorem State.resetAction_nextFree : (s.resetAction).nextFree = s.nextFree + 25 := rfl
@[simp] theorem State.resetAction_inputs : (s.resetAction).inputs = s.inputs := rfl
@[simp] theorem State.resetAction_held : (s.resetAction).held = s.held := rfl
@[simp] theorem State.resetAction_delivered : (s.resetAction).delivered = s.delivered := rfl

@[simp] theorem State.passEdge_lanes : (s.passEdge).lanes = s.lanes := rfl
@[simp] theorem State.passEdge_defined : (s.passEdge).defined = s.defined := rfl
@[simp] theorem State.passEdge_ctl : (s.passEdge).ctl = s.ctl := rfl
@[simp] theorem State.passEdge_status : (s.passEdge).status = s.status := rfl
@[simp] theorem State.passEdge_raised : (s.passEdge).raised = s.raised := rfl
@[simp] theorem State.passEdge_nextFree : (s.passEdge).nextFree = s.nextFree := rfl
@[simp] theorem State.passEdge_inputs : (s.passEdge).inputs = s.inputs.tail := rfl
@[simp] theorem State.passEdge_held : (s.passEdge).held = if s.cmdReady then none else s.pins.cmd := rfl
@[simp] theorem State.passEdge_delivered : (s.passEdge).delivered = s.delivered := rfl

@[simp] theorem State.withAccepted_lanes (b : Beat) : (s.withAccepted b).lanes = s.lanes := rfl
@[simp] theorem State.withAccepted_defined (b : Beat) : (s.withAccepted b).defined = s.defined := rfl
@[simp] theorem State.withAccepted_ctl (b : Beat) : (s.withAccepted b).ctl = .exec b := rfl
@[simp] theorem State.withAccepted_status (b : Beat) : (s.withAccepted b).status = s.status := rfl
@[simp] theorem State.withAccepted_raised (b : Beat) : (s.withAccepted b).raised = s.raised := rfl
@[simp] theorem State.withAccepted_nextFree (b : Beat) : (s.withAccepted b).nextFree = s.nextFree := rfl
@[simp] theorem State.withAccepted_inputs (b : Beat) :
    (s.withAccepted b).inputs = s.inputs.modifyHead fun p => { p with rst := false } := rfl
@[simp] theorem State.withAccepted_held (b : Beat) : (s.withAccepted b).held = none := rfl
@[simp] theorem State.withAccepted_delivered (b : Beat) : (s.withAccepted b).delivered = s.delivered := rfl

@[simp] theorem State.touch_lanes (i : LaneIdx) : (s.touch i).lanes = s.lanes := by
  unfold State.touch; split <;> rfl
@[simp] theorem State.touch_defined (i : LaneIdx) : (s.touch i).defined = s.defined := by
  unfold State.touch; split <;> rfl
@[simp] theorem State.touch_ctl (i : LaneIdx) : (s.touch i).ctl = s.ctl := by
  unfold State.touch; split <;> rfl
@[simp] theorem State.touch_status (i : LaneIdx) : (s.touch i).status = s.status := by
  unfold State.touch; split <;> rfl
@[simp] theorem State.touch_nextFree (i : LaneIdx) : (s.touch i).nextFree = s.nextFree := by
  unfold State.touch; split <;> rfl
@[simp] theorem State.touch_inputs (i : LaneIdx) : (s.touch i).inputs = s.inputs := by
  unfold State.touch; split <;> rfl
@[simp] theorem State.touch_held (i : LaneIdx) : (s.touch i).held = s.held := by
  unfold State.touch; split <;> rfl
@[simp] theorem State.touch_delivered (i : LaneIdx) : (s.touch i).delivered = s.delivered := by
  unfold State.touch; split <;> rfl

@[simp] theorem State.xorLane_defined (i : LaneIdx) (v : Word) : (s.xorLane i v).defined = s.defined := by
  unfold State.xorLane; split <;> rfl
@[simp] theorem State.xorLane_ctl (i : LaneIdx) (v : Word) : (s.xorLane i v).ctl = s.ctl := by
  unfold State.xorLane; split <;> rfl
@[simp] theorem State.xorLane_status (i : LaneIdx) (v : Word) : (s.xorLane i v).status = s.status := by
  unfold State.xorLane; split <;> rfl
@[simp] theorem State.xorLane_raised (i : LaneIdx) (v : Word) : (s.xorLane i v).raised = s.raised := by
  unfold State.xorLane; split <;> rfl
@[simp] theorem State.xorLane_inputs (i : LaneIdx) (v : Word) : (s.xorLane i v).inputs = s.inputs := by
  unfold State.xorLane; split <;> rfl
@[simp] theorem State.xorLane_held (i : LaneIdx) (v : Word) : (s.xorLane i v).held = s.held := by
  unfold State.xorLane; split <;> rfl
@[simp] theorem State.xorLane_delivered (i : LaneIdx) (v : Word) : (s.xorLane i v).delivered = s.delivered := by
  unfold State.xorLane; split <;> rfl

end Sys2Proof.Machine
end

