-- ==== Sys2Proof/Laws/Word.lean ====
section
/-! SUPPORT. Reading back what `tabulate` and `columns` build, and lanes compared entry by entry. -/

namespace Sys2Proof

@[simp] theorem tabulate_get {α : Type} (f : LaneIdx → α) (i : LaneIdx) : (tabulate f)[i] = f i := by
  fin_cases i <;> rfl

@[simp] theorem tabulate_getElem {α : Type} (f : LaneIdx → α) (i : Nat) (h : i < 25) :
    (tabulate f)[i] = f ⟨i, h⟩ := tabulate_get f ⟨i, h⟩

/-- Two 25-entry vectors with the same entries are the same. -/
theorem vector_ext {α : Type} {A B : Vector α 25} (h : ∀ i : LaneIdx, A[i] = B[i]) : A = B :=
  Vector.ext fun i hi => h ⟨i, hi⟩

theorem tabulate_eta {α : Type} (A : Vector α 25) : (tabulate fun i => A[i]) = A := vector_ext fun _ => by simp

namespace Machine

@[simp] theorem columns_getElem (f : Nat → Word) (x : Nat) (h : x < 5) : (columns f)[x] = f x := by
  interval_cases x <;> rfl

@[simp] theorem atCol_columns (f : Nat → Word) (x : Nat) : atCol (columns f) x = f (x % 5) :=
  columns_getElem f _ _

@[simp] theorem laneAt_col_row (i : LaneIdx) : laneAt (col i) (row i) = i := by
  fin_cases i <;> rfl

theorem laneAt_val (x y : Nat) : (laneAt x y).val = x % 5 + 5 * (y % 5) := rfl

@[simp] theorem col_laneAt (x y : Nat) : col (laneAt x y) = x % 5 := by
  rw [col, laneAt_val]; omega

@[simp] theorem row_laneAt (x y : Nat) : row (laneAt x y) = y % 5 := by
  rw [row, laneAt_val]; omega

end Machine

end Sys2Proof
end

