-- ==== Sys2Proof/Laws/Ops.lean ====
section
/-! SUPPORT. What each shared operation can do, said once: lanes, faults, the meanings' outcome, one edge. -/

namespace Sys2Proof.Machine

theorem laneIndex_of_lt {lane : BitVec 5} (h : lane.toNat < 25) : laneIndex lane = some ⟨lane.toNat, h⟩ :=
  dif_pos h

theorem laneIndex_of_not_lt {lane : BitVec 5} (h : ¬ lane.toNat < 25) : laneIndex lane = none := dif_neg h

/-- `onLane` always answers a next state: the lane's, or the illegal-command outcome. -/
theorem onLane_cases (lane : BitVec 5) (s : State) (f : LaneIdx → State) :
    (∃ i : LaneIdx, i.val = lane.toNat ∧ onLane lane s f = .next (f i)) ∨
      (25 ≤ lane.toNat ∧ onLane lane s f = .next (s.raiseIllegal .badLane)) := by
  by_cases h : lane.toNat < 25
  · exact .inl ⟨⟨lane.toNat, h⟩, rfl, by rw [onLane, laneIndex_of_lt h]⟩
  · exact .inr ⟨by omega, by rw [onLane, laneIndex_of_not_lt h]⟩

theorem onLane_of_lt {lane : BitVec 5} (h : lane.toNat < 25) (s : State) (f : LaneIdx → State) :
    onLane lane s f = .next (f ⟨lane.toNat, h⟩) := by rw [onLane, laneIndex_of_lt h]

theorem onLane_of_le {lane : BitVec 5} (h : 25 ≤ lane.toNat) (s : State) (f : LaneIdx → State) :
    onLane lane s f = .next (s.raiseIllegal .badLane) := by
  rw [onLane, laneIndex_of_not_lt (by omega)]

theorem touch_of_defined {s : State} {i : LaneIdx} (h : s.isDefined i = true) : s.touch i = s := by
  simp [State.touch, h]

theorem touch_of_undefined {s : State} {i : LaneIdx} (h : s.isDefined i = false) :
    s.touch i = s.raiseFault (.unwrittenLane i) := by simp [State.touch, h]

theorem xorLane_of_defined {s : State} {i : LaneIdx} (h : s.isDefined i = true) (v : Word) :
    s.xorLane i v = s.setLane i (s.lane i ^^^ v) := by simp [State.xorLane, h]

theorem xorLane_of_undefined {s : State} {i : LaneIdx} (h : s.isDefined i = false) (v : Word) :
    s.xorLane i v = s.freeOne i := by simp [State.xorLane, h]

/-- No lane is undefined exactly when every lane is defined. -/
theorem firstUndefined_eq_none (s : State) : s.firstUndefined = none ↔ ∀ i : LaneIdx, s.isDefined i = true := by
  simp [State.firstUndefined, List.find?_eq_none]

/-- The first undefined lane is undefined, and every lower lane is defined. -/
theorem firstUndefined_eq_some {s : State} {i : LaneIdx} (h : s.firstUndefined = some i) :
    s.isDefined i = false := by
  have := List.find?_some h
  simpa using this

/-- Every lane below the first undefined one is defined; so the lowest undefined lane is the first. -/
theorem firstUndefined_of_lowest {s : State} {i : LaneIdx} (h : s.isDefined i = false)
    (low : ∀ j : LaneIdx, j < i → s.isDefined j = true) : s.firstUndefined = some i := by
  refine List.find?_eq_some_iff_append.2 ⟨by simp [h], (List.finRange 25).take i.val,
    (List.finRange 25).drop (i.val + 1), by fin_cases i <;> rfl, fun a ha => ?_⟩
  obtain ⟨k, hk, rfl⟩ := List.mem_take_iff_getElem.1 ha
  have hki : k < i.val := (Nat.lt_min.1 hk).1
  simp [low ⟨k, by omega⟩ hki]

theorem execPerm_of_defined {s : State} (h : s.firstUndefined = none) :
    execPerm s = .next ((s.loadLanes (keccakF s.lanes)).respond 0 0) := by rw [execPerm, h]

theorem execPerm_of_undefined {s : State} {i : LaneIdx} (h : s.firstUndefined = some i) :
    execPerm s = .next ((s.raiseFault (.unwrittenLane i)).freeAll.respond 0 0) := by rw [execPerm, h]

/-- Reading one lane after writing one. -/
theorem lane_setLane (s : State) (i j : LaneIdx) (v : Word) :
    (s.setLane i v).lane j = if j = i then v else s.lane j := by
  by_cases h : j = i
  · simp [h, State.lane]
  · have : i.val ≠ j.val := fun e => h (Fin.ext e.symm)
    simp [h, State.lane, Vector.getElem_set_ne, this]

theorem lane_freeOne (s : State) (i j : LaneIdx) :
    (s.freeOne i).lane j = if j = i then Config.freeLane s.nextFree else s.lane j :=
  lane_setLane s i j _

theorem isDefined_define (s : State) (i j : LaneIdx) : (s.define i).isDefined j = (s.isDefined j || j == i) := by
  by_cases h : j = i
  · simp [h, State.isDefined]
  · have : i.val ≠ j.val := fun e => h (Fin.ext e.symm)
    simp [h, State.isDefined, Vector.getElem_set_ne, this]

/-- A raised fault stays the one it was. -/
theorem raiseFault_keeps {s : State} {f : Fault} (h : s.raised = some f) (g : Fault) :
    (s.raiseFault g).raised = some f := by simp [h]

/-- Every command's rule answers a next state that holds a response. -/
theorem exec_next (i : Instr) (s : State) : ∃ t r, exec i s = .next t ∧ t.ctl = .resp r := by
  cases i with
  | nop => exact ⟨_, _, rfl, rfl⟩
  | wrl lane d =>
    obtain ⟨i, -, h⟩ | ⟨-, h⟩ := onLane_cases lane s fun i => ((s.setLane i d).define i).respond 0 0 <;>
      exact ⟨_, _, h, rfl⟩
  | xrl lane d =>
    obtain ⟨i, -, h⟩ | ⟨-, h⟩ := onLane_cases lane s fun i => ((s.touch i).xorLane i d).respond 0 0 <;>
      exact ⟨_, _, h, rfl⟩
  | rdl lane =>
    obtain ⟨i, -, h⟩ | ⟨-, h⟩ := onLane_cases lane s fun i => (s.touch i).respond (s.lane i) 0 <;>
      exact ⟨_, _, h, rfl⟩
  | clr => exact ⟨_, _, rfl, rfl⟩
  | perm =>
    cases h : s.firstUndefined with
    | none => exact ⟨_, _, by simp only [exec, execPerm, h]; rfl, rfl⟩
    | some i => exact ⟨_, _, by simp only [exec, execPerm, h]; rfl, rfl⟩
  | rds => exact ⟨_, _, rfl, rfl⟩

/-- No command's rule touches the host's side of the state. -/
theorem exec_keeps_host {i : Instr} {s t : State} (h : exec i s = .next t) :
    t.inputs = s.inputs ∧ t.held = s.held ∧ t.delivered = s.delivered := by
  cases i with
  | nop => cases h; simp
  | wrl lane d =>
    obtain ⟨i, -, e⟩ | ⟨-, e⟩ := onLane_cases lane s fun i => ((s.setLane i d).define i).respond 0 0 <;>
      (rw [exec, execWrl, e] at h; cases h; simp)
  | xrl lane d =>
    obtain ⟨i, -, e⟩ | ⟨-, e⟩ := onLane_cases lane s fun i => ((s.touch i).xorLane i d).respond 0 0 <;>
      (rw [exec, execXrl, e] at h; cases h; simp)
  | rdl lane =>
    obtain ⟨i, -, e⟩ | ⟨-, e⟩ := onLane_cases lane s fun i => (s.touch i).respond (s.lane i) 0 <;>
      (rw [exec, execRdl, e] at h; cases h; simp)
  | clr => cases h; simp
  | perm =>
    cases e : s.firstUndefined <;> (simp only [exec, execPerm, e] at h; cases h; simp)
  | rds => cases h; simp

/-- `Exec` is the rule of the decoded command, or the illegal-command outcome. -/
theorem execBeat_cases (b : Beat) (s : State) :
    (∃ i, decode b.cw b.d = .cmd i ∧ execBeat b s = exec i s) ∨
      (∃ c, decode b.cw b.d = .illegal c ∧ execBeat b s = .next (s.raiseIllegal c)) := by
  cases h : decode b.cw b.d with
  | cmd i => exact .inl ⟨i, rfl, by simp [execBeat, h]⟩
  | illegal c => exact .inr ⟨c, rfl, by simp [execBeat, h]⟩

/-- The pins at the coming edge are the first of the plan. -/
theorem State.pinsAt_zero (s : State) : s.pinsAt 0 = s.pins := rfl

/-- When an edge has passed the plan is one edge shorter. -/
@[simp] theorem State.pinsAt_passEdge (s : State) (k : Nat) : s.passEdge.pinsAt k = s.pinsAt (k + 1) := by
  simp [State.pinsAt, State.passEdge, ← List.drop_one, List.drop_drop, Nat.add_comm]

/-- The host keeps its duty at an edge exactly when the command that is due, if there is one, is on the pins. -/
theorem hostKeepsDuty_iff (s : State) : s.hostKeepsDuty = true ↔ ∀ b, s.held = some b → s.pins.cmd = some b := by
  unfold State.hostKeepsDuty; cases s.held <;> simp

/-- A host that keeps its offer over `n + 1` edges keeps it over the `n` that follow the first. -/
theorem keepsOffer_passEdge {s : State} {n : Nat} (h : s.keepsOffer (n + 1)) : s.passEdge.keepsOffer n := by
  refine ⟨fun b hn hb => ?_, fun k b hk hb => ?_⟩
  · have : s.pins.cmd = some b := by
      simp only [State.passEdge] at hb
      split at hb
      · cases hb
      · exact hb
    simpa using h.2 0 b (by omega) this
  · simpa using h.2 (k + 1) b (by omega) (by simpa using hb)

/-- What one step can do: the reset, a refusal of a host that broke its duty, or the controller's case. -/
theorem step_cases (s : State) :
    (s.pins.rst = true ∧ step s = .next s.passEdge.resetAction) ∨
      (s.pins.rst = false ∧ s.hostKeepsDuty = false ∧ step s = .refused .hostDutyBroken) ∨
      (s.pins.rst = false ∧ s.hostKeepsDuty = true ∧
        ((s.ctl = .idle ∧ step s = .next s.accept) ∨
          (∃ b, s.ctl = .exec b ∧ step s = execBeat b s.passEdge) ∨
          (∃ r, s.ctl = .resp r ∧ step s = .next (s.offerResponse r)))) := by
  unfold step clockEdge
  cases hr : s.pins.rst
  · cases hd : s.hostKeepsDuty
    · simp
    · cases hc : s.ctl <;> simp
  · simp

end Sys2Proof.Machine
end

