-- ==== Sys2Proof/Laws/Assembler.lean ====
section
/-! SUPPORT. What the assembler's operand checks answer, and the lane fields it writes. -/

namespace Sys2Proof.Machine

/-- A lane operand that is accepted names a lane. -/
theorem resolveLane_legal {l : LaneRef} {lane : BitVec 5} (h : resolveLane l = .ok lane) : laneLegal lane = true := by
  cases l with
  | index i =>
    simp only [resolveLane] at h
    split at h <;> cases h
    simp [laneLegal]; omega
  | coord x y =>
    simp only [resolveLane] at h
    split at h
    · cases h
      rename_i hxy
      have hlt : x + 5 * y < 25 := by omega
      simp only [laneLegal, BitVec.toNat_ofNat, Nat.mod_eq_of_lt (show x + 5 * y < 2 ^ 5 by omega), hlt, decide_true]
    · cases h

/-- The lane field written for a lane index names that lane. -/
@[simp] theorem laneIndex_laneBitsOf (i : LaneIdx) : laneIndex (laneBitsOf i) = some i := by
  revert i; decide

@[simp] theorem laneLegal_laneBitsOf (i : LaneIdx) : laneLegal (laneBitsOf i) = true := by
  revert i; decide

/-- A line that is no raw data has the beats of its commands. -/
theorem assemble_eq {line : AsmLine} (h : ∀ b, line ≠ .raw b) :
    assemble line = (lineCommands line).map (List.map encode) := by
  cases line <;> first | rfl | exact absurd rfl (h _)

end Sys2Proof.Machine
end

