-- ==== Sys2Proof/Laws/Decode.lean ====
section
/-! SUPPORT. The fields of a command word in arithmetic, and what a word that decodes to a command must be. -/

namespace Sys2Proof

theorem opField_toNat (cw : BitVec 16) : (opField cw).toNat = cw.toNat / 2 ^ 12 := by
  have := cw.isLt
  simp [opField, BitVec.extractLsb'_toNat, Nat.shiftRight_eq_div_pow]; omega

theorem rsvField_toNat (cw : BitVec 16) : (rsvField cw).toNat = cw.toNat / 2 ^ 5 % 2 ^ 7 := by
  simp [rsvField, BitVec.extractLsb'_toNat, Nat.shiftRight_eq_div_pow]

theorem laneField_toNat (cw : BitVec 16) : (laneField cw).toNat = cw.toNat % 2 ^ 5 := by
  simp [laneField, BitVec.extractLsb'_toNat]

/-- A word is its three fields put together (30_encoding.md R60). -/
theorem fields_append (cw : BitVec 16) : opField cw ++ rsvField cw ++ laneField cw = cw := by
  apply BitVec.eq_of_getLsbD_eq
  intro k hk
  simp only [opField, rsvField, laneField, BitVec.getLsbD_extractLsb', BitVec.getLsbD_append]
  interval_cases k <;> simp

/-- A command read from the fields has their operation code, lane and data where it uses them. -/
theorem commandOf_fields {op : BitVec 4} {lane : BitVec 5} {d : Word} {i : Instr} (h : commandOf op lane d = some i) :
    i.opcode = op ∧ i.laneBits = (if i.usesLane then lane else 0) ∧ i.data = (if i.usesData then d else 0) := by
  unfold commandOf at h
  split at h <;> simp at h <;> subst h <;> refine ⟨?_, rfl, rfl⟩ <;> apply BitVec.eq_of_toNat_eq <;>
    simp_all [Instr.opcode]

/-- What a word that decodes to a command passed: every check of 30_encoding.md R67. -/
theorem decode_cmd {cw : BitVec 16} {d : Word} {i : Instr} (h : decode cw d = .cmd i) :
    commandOf (opField cw) (laneField cw) d = some i ∧ rsvField cw = 0#7 ∧
      (i.usesLane = false → laneField cw = 0#5) ∧ (i.usesLane = true → (laneField cw).toNat < 25) := by
  unfold decode at h
  split at h
  · cases h
  · rename_i j hj
    split_ifs at h with h1 h2 h3
    cases h
    exact ⟨hj, by simpa using h1, fun hu => by simpa [hu] using h2, fun hu => by simpa [hu] using h3⟩

end Sys2Proof
end

