-- ==== Sys2Proof/Laws/Flags.lean ====
section
/-! SUPPORT. The bits of the STATUS word, and what the sticky update keeps. -/

namespace Sys2Proof.Machine

theorem statusWord_getLsbD (st : Status) (k : Nat) :
    st.word.getLsbD k = if k = 0 then st.illegal else if k < 3 then st.cause.getLsbD (k - 1) else false := by
  simp only [Status.word, BitVec.getLsbD_setWidth, BitVec.getLsbD_append]
  rcases k with _ | _ | _ | k <;> simp

@[simp] theorem record_illegal (st : Status) (c : Cause) : (st.record c).illegal = true := rfl

/-- Once `ILLEGAL` is set, a further illegal command leaves STATUS as it is. -/
theorem record_of_illegal {st : Status} (h : st.illegal = true) (c : Cause) : st.record c = st := by
  cases st; simp_all [Status.record]

theorem causeCode_ne_zero (c : Cause) : causeCode c ≠ 0 := by cases c <;> decide

/-- The sticky update gives STATUS a legal value. -/
theorem record_legal {st : Status} (h : st.legal = true) (c : Cause) : (st.record c).legal = true := by
  cases hi : st.illegal
  · simpa [Status.record, Status.legal, hi] using causeCode_ne_zero c
  · rwa [record_of_illegal hi]

end Sys2Proof.Machine
end

