-- ==== Sys2Proof/Laws/InPlace.lean ====
section
/-! SUPPORT. What updating lanes one at a time does: a pass that changes each lane by itself, and the walk. -/

namespace Sys2Proof.Machine

/-- Reading one lane after writing one. -/
theorem getElem_set_lane (A : Lanes) (i j : LaneIdx) (v : Word) : (A.set i v)[j] = if j = i then v else A[j] := by
  by_cases h : j = i
  · simp [h]
  · have : i.val ≠ j.val := fun e => h (Fin.ext e.symm)
    simp [h, Vector.getElem_set_ne, this]

/-- A pass over distinct lanes, each updated from itself, changes exactly those lanes, each from its old value. -/
theorem foldl_set_getElem (f : LaneIdx → Word → Word) (l : List LaneIdx) (hl : l.Nodup) (A : Lanes) (i : LaneIdx) :
    (l.foldl (fun (B : Lanes) (j : LaneIdx) => B.set j (f j B[j])) A)[i] = if i ∈ l then f i A[i] else A[i] := by
  induction l generalizing A with
  | nil => simp
  | cons j l ih =>
    obtain ⟨hj, hl⟩ := List.nodup_cons.1 hl
    rw [List.foldl_cons, ih hl, getElem_set_lane]
    by_cases h : i = j
    · subst h; simp [hj]
    · simp [h]

/-- The walk leaves alone the lanes it does not visit. -/
theorem walk_not_visited (f : Word → LaneIdx → Word) (l : List LaneIdx) (w : Walk) (i : LaneIdx) (h : i ∉ l) :
    (l.foldl (walkMove f) w).lanes[i] = w.lanes[i] := by
  induction l generalizing w with
  | nil => rfl
  | cons d l ih =>
    obtain ⟨hd, hl⟩ := List.ne_and_not_mem_of_not_mem_cons h
    rw [List.foldl_cons, ih _ hl, walkMove, getElem_set_lane, if_neg hd]

/-- After a walk that ends in `p`, visited only then, the temporary holds `p`'s old lane, and its source is `p`. -/
theorem walk_carries (f : Word → LaneIdx → Word) (l : List LaneIdx) (p : LaneIdx) (w : Walk) (h : p ∉ l) :
    ((l ++ [p]).foldl (walkMove f) w).carried = w.lanes[p] ∧ ((l ++ [p]).foldl (walkMove f) w).source = p := by
  rw [List.foldl_append]
  exact ⟨walk_not_visited f l w p h, rfl⟩

/-- A lane visited once, right after `p`, receives `p`'s old lane. -/
theorem walk_visited (f : Word → LaneIdx → Word) (l m : List LaneIdx) (p d : LaneIdx) (w : Walk) (hp : p ∉ l)
    (hd : d ∉ m) : ((l ++ [p] ++ d :: m).foldl (walkMove f) w).lanes[d] = f w.lanes[p] p := by
  rw [List.foldl_append, List.foldl_cons, walk_not_visited f m _ d hd, walkMove, getElem_set_lane, if_pos rfl,
    (walk_carries f l p w hp).1, (walk_carries f l p w hp).2]

/-- The lane the walk visits first receives the value carried from the start. -/
theorem walk_first (f : Word → LaneIdx → Word) (m : List LaneIdx) (d : LaneIdx) (w : Walk) (hd : d ∉ m) :
    ((d :: m).foldl (walkMove f) w).lanes[d] = f w.carried w.source := by
  rw [List.foldl_cons, walk_not_visited f m _ d hd, walkMove, getElem_set_lane, if_pos rfl]

end Sys2Proof.Machine
end

