-- ==== Sys2Proof/Laws/PerInstr.lean ====
section
/-! SUPPORT. Per-command lemmas about the encoding: the fields of an encoded command read back (30_encoding.md R60). -/

namespace Sys2Proof.Laws.EncodedFields

/-- The three fields of the encoded word are the command's operation code, zero, and its lane field. -/
def Statement (i : Instr) : Prop :=
  opField (encode i).cw = i.opcode ∧ rsvField (encode i).cw = 0#7 ∧ laneField (encode i).cw = i.laneBits

/-- Reading the three fields of a word put together from them. -/
theorem fields_of_append (op : BitVec 4) (rsv : BitVec 7) (lane : BitVec 5) :
    opField (op ++ rsv ++ lane) = op ∧ rsvField (op ++ rsv ++ lane) = rsv ∧ laneField (op ++ rsv ++ lane) = lane := by
  refine ⟨?_, ?_, ?_⟩ <;> apply BitVec.eq_of_getLsbD_eq <;> intro k hk <;>
    simp only [opField, rsvField, laneField, BitVec.getLsbD_extractLsb', BitVec.getLsbD_append] <;>
    interval_cases k <;> simp

theorem nop : Statement .nop := fields_of_append _ _ _
theorem wrl (lane : BitVec 5) (d : Word) : Statement (.wrl lane d) := fields_of_append _ _ _
theorem xrl (lane : BitVec 5) (d : Word) : Statement (.xrl lane d) := fields_of_append _ _ _
theorem rdl (lane : BitVec 5) : Statement (.rdl lane) := fields_of_append _ _ _
theorem clr : Statement .clr := fields_of_append _ _ _
theorem perm : Statement .perm := fields_of_append _ _ _
theorem rds : Statement .rds := fields_of_append _ _ _

end Sys2Proof.Laws.EncodedFields
end

