-- ==== Sys2Proof/Tests/Slice0.lean ====
section
/-! SUPPORT. The model's own tests: the spec's worked values (95_test_vectors.md, named at each), the WellFormed smoke
test, and one witness for every statement that has hypotheses. -/

namespace Sys2Proof.Tests

open Sys2Proof Sys2Proof.Machine

/-! ## Small states -/

/-- A booted block with the lanes `A`, IDLE, STATUS 0. -/
def booted (A : Lanes) : State := { State.reset with lanes := A, defined := tabulate fun _ => true }

/-- The block after `CLR`. -/
def cleared : State := booted (tabulate fun _ => 0)

/-- A block whose lanes are zero but which only lane 3 of is defined. -/
def onlyLane3 : State := { cleared with defined := tabulate fun i => i == 3 }

/-- The block `s` with the beat `(cw, d)` accepted. -/
def running (cw : BitVec 16) (d : Word) (s : State) : State := { s with ctl := .exec { cw, d } }

/-- The test state `S` of 95_test_vectors.md: `A[i] = i`. -/
def testS : Lanes := tabulate fun i => BitVec.ofNat 64 i.val

def zeroLanes : Lanes := tabulate fun _ => 0

/-- What a test looks at: the response, STATUS, one lane, whether a model fault is raised. -/
def outcome (o : Host.Outcome State Fault Refusal) (i : LaneIdx) : Option (Ctl × Word × Word × Option Fault) :=
  match o with
  | .next t => some (t.ctl, t.status.word, t.lane i, t.raised)
  | .fault _ => none
  | .refused _ => none

/-! ## Encoding (30_encoding.md R60 to R69; 95_test_vectors.md V-L and V-E) -/

/-- One word of each command, bit by bit: OP, RSV, LANE. -/
theorem test_decode_words :
    decode 0b0000_0000000_00000#16 5 = .cmd .nop ∧ decode 0b0001_0000000_00111#16 5 = .cmd (.wrl 7 5) ∧
    decode 0b0010_0000000_00001#16 5 = .cmd (.xrl 1 5) ∧ decode 0b0011_0000000_11000#16 5 = .cmd (.rdl 24) ∧
    decode 0b0100_0000000_00000#16 5 = .cmd .clr ∧ decode 0b0101_0000000_00000#16 5 = .cmd .perm ∧
    decode 0b0110_0000000_00000#16 5 = .cmd .rds := by decide

/-- V-E, every illegal row. -/
theorem test_decode_illegal :
    decode 0x7000 0 = .illegal .badOp ∧ decode 0xF01F 0 = .illegal .badOp ∧ decode 0x8FFF 0 = .illegal .badOp ∧
    decode 0x1020 0 = .illegal .badField ∧ decode 0x103F 0 = .illegal .badField ∧
    decode 0x0001 0 = .illegal .badField ∧ decode 0x4001 0 = .illegal .badField ∧
    decode 0x5800 0 = .illegal .badField ∧ decode 0x6010 0 = .illegal .badField ∧
    decode 0x1019 0 = .illegal .badLane ∧ decode 0x301F 0 = .illegal .badLane ∧
    decode 0x2019 0 = .illegal .badLane := by decide

/-- V-L 1 and 3, R69: the words the assembler emits. -/
theorem test_encode :
    encode (.wrl 7 0x0123456789ABCDEF) = { cw := 0x1007, d := 0x0123456789ABCDEF } ∧
    encode (.xrl 16 1) = { cw := 0x2010, d := 1 } ∧ encode (.rdl 24) = { cw := 0x3018, d := 0 } ∧
    encode .perm = { cw := 0x5000, d := 0 } := by decide

theorem test_table_word :
    decodeTableWord 16 0x2003 = some (.xrl 3 0) ∧ decodeTableWord 80 (0x1001 + 2 ^ 16 * 0xAB) = some (.wrl 1 0xAB) ∧
    decodeTableWord 16 0x7000 = none := by decide

/-- The WellFormed smoke test: a lane field that names no lane is refused, 24 is not. -/
theorem test_wellFormed_refuses :
    (Instr.wrl 25 0).wellFormed = false ∧ (Instr.xrl 31 0).wellFormed = false ∧ (Instr.rdl 25).wellFormed = false ∧
    (Instr.wrl 24 0).wellFormed = true ∧ Instr.perm.wellFormed = true := by decide

/-- V-L 12 and R70: `XRB 13, #0xAB`; `a(2,1)` is lane 7; a lane 25 is refused, on its line. -/
theorem test_assemble :
    assemble (.pseudo (.xrb 13 0xAB)) = .ok [{ cw := 0x2001, d := 0x0000AB0000000000 }] ∧
    assemble (.wrl (.coord 2 1) 5) = .ok [{ cw := 0x1007, d := 5 }] ∧
    assembleFrom 1 [.nop, .rdl (.index 25)] = .error (2, .laneOutOfRange) := by decide

/-- R71: `XRBLK #0xA, #0xB` is `XRL a0, #0xA` and `XRL a1, #0xB`. -/
theorem test_assemble_block :
    assemble (.pseudo (.xrblk [0xA, 0xB])) = .ok [{ cw := 0x2000, d := 0xA }, { cw := 0x2001, d := 0xB }] := by decide

theorem test_line_text : lineText (.wrl (.coord 2 1) 255) = "WRL  a(2,1), #0xff" := by decide +kernel

/-! ## Commands (95_test_vectors.md V-L, V-E, V-M) -/

/-- V-L 7. -/
theorem test_nop : outcome (exec .nop State.reset) 0 = some (.resp ⟨0, 0⟩, 0, State.reset.lane 0, none) := rfl

/-- V-L 1: the lane, and its neighbour unchanged. -/
theorem test_wrl :
    outcome (exec (.wrl 7 0x0123456789ABCDEF) cleared) 7 = some (.resp ⟨0, 0⟩, 0, 0x0123456789ABCDEF, none) ∧
    outcome (exec (.wrl 7 0x0123456789ABCDEF) cleared) 8 = some (.resp ⟨0, 0⟩, 0, 0, none) := by decide

/-- V-M: WRL of an undefined lane defines it. -/
theorem test_wrl_defines : (match exec (.wrl 4 5) onlyLane3 with
    | .next t => t.isDefined 4 && t.isDefined 3 && !t.isDefined 5 | .fault _ => false | .refused _ => false) = true := by
  decide

/-- V-L 5: 1 XOR 3 is 2. -/
theorem test_xrl : outcome (exec (.xrl 0 3) (booted (tabulate fun _ => 1))) 0 = some (.resp ⟨0, 0⟩, 0, 2, none) := by
  decide

/-- V-M: XRL of an undefined lane raises the model fault, and goes on. -/
theorem test_xrl_undefined : (match exec (.xrl 4 3) onlyLane3 with
    | .next t => t.raised == some (.unwrittenLane 4) && !t.isDefined 4 && t.ctl == .resp ⟨0, 0⟩
    | .fault _ => false | .refused _ => false) = true := by decide

/-- V-L 2 and V-M: RDL of a defined and of an undefined lane. -/
theorem test_rdl : outcome (exec (.rdl 24) (booted testS)) 24 = some (.resp ⟨24, 0⟩, 0, 24, none) := by decide

theorem test_rdl_undefined :
    (match strictStep (running 0x3004 0 onlyLane3), strictStep (running 0x3003 0 onlyLane3) with
    | .fault (.unwrittenLane i), .next t => i == 4 && t.ctl == .resp ⟨0, 0⟩
    | _, _ => false) = true := by decide

/-- V-L 10, and 70_reset_and_hazards.md R153: CLR boots a block straight from reset. -/
theorem test_clr : (match exec .clr State.reset with
    | .next t => decide (t.lanes = zeroLanes) && (t.defined == tabulate fun _ => true)
    | .fault _ => false | .refused _ => false) = true := by decide

/-- R86's example: after an illegal command with cause 3, STATUS reads 7. -/
theorem test_rds :
    outcome (exec .rds { cleared with status := { illegal := true, cause := 3 } }) 0 =
      some (.resp ⟨7, 0⟩, 7, 0, none) := by decide

/-- V-P1, through PERM: all 25 lanes of `KeccakF1600(0)`, a list per row `y` of the table. -/
theorem test_perm_zero_state : (match exec .perm cleared with
    | .next t => t.lanes.toList == (
      [0xF1258F7940E1DDE7, 0x84D5CCF933C0478A, 0xD598261EA65AA9EE, 0xBD1547306F80494D, 0x8B284E056253D057] ++
      [0xFF97A42D7F8E6FD4, 0x90FEE5A0A44647C4, 0x8C5BDA0CD6192E76, 0xAD30A6F71B19059C, 0x30935AB7D08FFC64] ++
      [0xEB5AA93F2317D635, 0xA9A6E6260D712103, 0x81A57C16DBCF555F, 0x43B831CD0347C826, 0x1F22F1A11A5569F] ++
      [0x5E5635A21D9AE61, 0x64BEFEF28CC970F2, 0x613670957BC46611, 0xB87C5A554FD00ECB, 0x8C3EE88A1CCF32C8] ++
      [0x940C7922AE3A2614, 0x1841F924A2C509E4, 0x16F53526E70465C2, 0x75F644E97F30A13B, 0xEAF1FF7B5CECA249])
    | .fault _ => false | .refused _ => false) = true := by decide +kernel

/-- V-M: PERM with an undefined lane. -/
theorem test_perm_undefined : (match exec .perm onlyLane3 with
    | .next t => t.raised == some (.unwrittenLane 0) && (t.defined == tabulate fun _ => false)
    | .fault _ => false | .refused _ => false) = true := by decide

/-- V-E: `0x1019` answers (0, 3) and STATUS 7; then, stickiness, `0x7000` answers (0, 1) and STATUS stays 7. -/
theorem test_illegal_sticky :
    outcome (execBeat { cw := 0x1019, d := 0x1234 } cleared) 24 = some (.resp ⟨0, 3⟩, 7, 0, none) ∧
    outcome (execBeat { cw := 0x7000, d := 0 } { cleared with status := { illegal := true, cause := 3 } }) 24 =
      some (.resp ⟨0, 1⟩, 7, 0, none) := by decide

/-! ## The permutation (95_test_vectors.md section 2) -/

/-- V-R. -/
theorem test_rotl64 :
    rotl64 1 0 = 1 ∧ rotl64 1 63 = 0x8000000000000000 ∧ rotl64 0x8000000000000000 1 = 1 ∧
    rotl64 0x0123456789ABCDEF 4 = 0x123456789ABCDEF0 ∧ rotl64 0x0123456789ABCDEF 60 = 0xF0123456789ABCDE ∧
    rotl64 0x0123456789ABCDEF 64 = 0x0123456789ABCDEF := by decide

/-- V-T2. -/
theorem test_theta : theta testS =
    #v[0x1A, 0x9, 0xD, 0x1D, 0x2F,
     0x1F, 0xE, 0x8, 0x16, 0x22,
     0x10, 0x3, 0x3, 0x13, 0x25,
     0x15, 0x18, 0x1E, 0xC, 0x38,
     0xE, 0x1D, 0x19, 0x9, 0x33] := by decide +kernel

/-- V-RH: every lane 1, lane `i` of the output is `1 << RHO[i]`. -/
theorem test_rho : rho (tabulate fun _ => 1) =
    #v[0x1, 0x2, 0x4000000000000000, 0x10000000, 0x8000000,
     0x1000000000, 0x100000000000, 0x40, 0x80000000000000, 0x100000,
     0x8, 0x400, 0x80000000000, 0x2000000, 0x8000000000,
     0x20000000000, 0x200000000000, 0x8000, 0x200000, 0x100,
     0x40000, 0x4, 0x2000000000000000, 0x100000000000000, 0x4000] := by decide +kernel

/-- V-PI. -/
theorem test_pi : pi testS =
    #v[0x0, 0x6, 0xC, 0x12, 0x18,
     0x3, 0x9, 0xA, 0x10, 0x16,
     0x1, 0x7, 0xD, 0x13, 0x14,
     0x4, 0x5, 0xB, 0x11, 0x17,
     0x2, 0x8, 0xE, 0xF, 0x15] := by decide +kernel

/-- V-CHI, whole state. -/
theorem test_chi : chi testS =
    #v[0x2, 0x0, 0x6, 0x3, 0x5,
     0x4, 0xE, 0x6, 0xC, 0xB,
     0xE, 0xA, 0xE, 0xD, 0xF,
     0xE, 0x12, 0x10, 0x1E, 0x3,
     0x16, 0x14, 0x1E, 0x13, 0x19] := by decide +kernel

/-- V-CHI: without the snapshot the row (1, 2, 4, 8, 16) comes out wrong in lanes 3 and 4; with it, right. -/
theorem test_chi_snapshot :
    let A : Lanes := tabulate fun i => if i.val < 5 then 1#64 <<< i.val else 0
    ((chiInPlace A)[3] = 9 ∧ (chiInPlace A)[4] = 0x12) ∧
      (chiRowCorrupt A 0)[3] = 0xD ∧ (chiRowCorrupt A 0)[4] = 0x1A := by decide +kernel

/-- V-RND, `Rnd(S, 0)`. -/
theorem test_round : keccakRound testS 0 =
    #v[0x18000000001B, 0xE00001800000, 0x1800000CC000, 0x180001A, 0xE000000CC000,
     0x1D0000080, 0x3000002200000, 0x2000000000000083, 0x30001D0000000, 0x2000000002200003,
     0x26000012, 0x3A00, 0x26380000, 0x3812, 0x380200,
     0x178000C00, 0x1F0000F0000, 0x900000000000C00, 0x1780F0000, 0x90001F000000000,
     0x4000128000000003, 0xB00280000000000, 0x128000000074, 0x40002A0000000003, 0xB00000000000074] := by decide +kernel

/-- V-RND, `Rnd(Rnd(0, 0), 1)`. -/
theorem test_second_round : keccakRound (keccakRound zeroLanes 0) 1 =
    #v[0x8083, 0x100000000000, 0x8000, 0x1, 0x100000008000,
     0x0, 0x200000200000, 0x0, 0x200000000000, 0x200000,
     0x2, 0x200, 0x0, 0x202, 0x0,
     0x10000400, 0x0, 0x400, 0x10000000, 0x0,
     0x10000000000, 0x0, 0x10000000004, 0x0, 0x4] := by decide +kernel

/-- R113: the in-place walk moves and rotates every lane as the table says. -/
theorem test_rho_pi_in_place : rhoPiInPlace testS = pi (rho testS) := by decide +kernel

/-- R100: the table of round constants is what the generator gives. -/
theorem test_round_constants : ∀ ir : RoundIdx, RC ir = generatedRC ir.val := by decide +kernel

/-- W5: byte 8 is the low byte of lane 1, byte 135 the high byte of lane 16, byte 199 of lane 24. -/
theorem test_byte_view :
    (let A : Lanes := (((tabulate fun _ => 0 : Lanes).set 1 0x61).set 16 0x8000000000000000).set 24 0x0700000000000000
    byteView A 8 = 0x61 ∧ byteView A 135 = 0x80 ∧ byteView A 199 = 7 ∧ byteView A 0 = 0) := by decide

/-! ## The port -/

/-- A whole command cycle from reset: accept CLR, run it, deliver (0, 0). -/
theorem test_cycle : (match runSteps 3 { State.reset with inputs := hostPlan [{ cw := 0x4000, d := 7 }] } with
    | .next t => t.delivered == [⟨0, 0⟩] && t.ctl == .idle && decide (t.lanes = zeroLanes)
    | .fault _ => false | .refused _ => false) = true := by decide

/-- R152: a reset in EXEC abandons the command and clears STATUS. -/
theorem test_reset_in_exec : (match step { running 0x5000 0 cleared with
      inputs := [{ rst := true, cmd := none, rspReady := false }], status := ⟨true, 2⟩ } with
    | .next t => t.ctl == .idle && t.status.word == 0 && (t.defined == tabulate fun _ => false)
    | .fault _ => false | .refused _ => false) = true := by decide

/-- R154: a command withdrawn before acceptance. -/
theorem test_withdrawn : (match step { running 0x5000 0 cleared with held := some { cw := 0, d := 0 } } with
    | .refused .hostDutyBroken => true | _ => false) = true := by decide

/-- The first command after reset, placed by withFetchWord, runs at the very next step. -/
theorem test_fetch_word : (match step (State.reset.withFetchWord 16 0x1003), step (State.reset.withFetchWord 16 0x5000) with
    | .next t, .next u => t.isDefined 3 && t.ctl == .resp ⟨0, 0⟩ && u.ctl == .resp ⟨0, 0⟩
    | _, _ => false) = true := by decide

/-! ## Witnesses: for every statement with hypotheses, a concrete instance that meets them all -/

theorem witness_DecodeEncodeRoundTrip : (Instr.xrl 24 5).wellFormed = true := by decide

theorem witness_EncodeDecodeRoundTrip : decode 0x1018 5 = .cmd (.wrl 24 5) ∧ (Instr.wrl 24 5).usesData = true := by
  decide

/-- Each of the six clauses, at a boundary. -/
theorem witness_DecodeChecksInOrder :
    let op := fun cw : Nat => cw / 2 ^ 12
    let rsv := fun cw : Nat => cw / 2 ^ 5 % 2 ^ 7
    let lane := fun cw : Nat => cw % 2 ^ 5
    let plain := fun cw : Nat => op cw = 0 ∨ op cw = 4 ∨ op cw = 5 ∨ op cw = 6
    7 ≤ op (0x7000#16).toNat ∧ (op (0x6020#16).toNat < 7 ∧ rsv (0x6020#16).toNat ≠ 0) ∧
    (op (0x6001#16).toNat < 7 ∧ rsv (0x6001#16).toNat = 0 ∧ plain (0x6001#16).toNat ∧ lane (0x6001#16).toNat ≠ 0) ∧
    (op (0x3019#16).toNat < 7 ∧ rsv (0x3019#16).toNat = 0 ∧ ¬ plain (0x3019#16).toNat ∧ 25 ≤ lane (0x3019#16).toNat) ∧
    (op (0x6000#16).toNat < 7 ∧ rsv (0x6000#16).toNat = 0 ∧ plain (0x6000#16).toNat ∧ lane (0x6000#16).toNat = 0) ∧
    (op (0x1018#16).toNat < 7 ∧ rsv (0x1018#16).toNat = 0 ∧ ¬ plain (0x1018#16).toNat ∧ lane (0x1018#16).toNat < 25) := by
  decide

theorem witness_LegalWordsAreTheTables : decode 0x3018 0 = .cmd (.rdl 24) ∧ (0x3018#16) ∈ legalWords := by decide

theorem witness_UnusedDataIsIgnored :
    (decode 0x3018 1 = .cmd (.rdl 24) ∧ (Instr.rdl 24).usesData = false) ∧ decode 0x3019 1 = .illegal .badLane := by
  decide

/-- Each clause, at a boundary. -/
theorem witness_AssembledBeatsAreLegal :
    (assemble (.rdl (.index 24)) = .ok [{ cw := 0x3018, d := 0 }] ∧ ∀ b, AsmLine.rdl (.index 24) ≠ .raw b) ∧
    (24 < 25 ∧ 4 < 5 ∧ 2 ^ 64 - 1 < 2 ^ 64 ∧ (25 : Nat) ≤ 25 ∧ (5 ≤ 5 ∨ 5 ≤ 0) ∧ (5 ≤ 0 ∨ 5 ≤ 5) ∧ 2 ^ 64 ≤ 2 ^ 64) ∧
    resolveLane (.coord 5 0) = .error .laneOutOfRange ∧
    (resolveLane (.index 24) = .ok 24 ∧ resolveImm (2 ^ 64) = .error .immediateTooWide) ∧
    (200 ≤ 200 ∧ 199 < 200 ∧ 2 ^ 8 ≤ 256 ∧ 25 < (List.replicate 26 (0 : Word)).length) ∧
    ((∀ l ∈ [AsmLine.nop], ∃ bs, assemble l = .ok bs) ∧ assemble (.rdl (.index 25)) = .error .laneOutOfRange) :=
  ⟨⟨by decide, by intro b; simp⟩, by decide, by decide, by decide, by decide,
    by simp only [List.mem_singleton]; rintro l rfl; exact ⟨_, rfl⟩, by decide⟩

theorem witness_LegalLinesAssembleToTheirWords :
    (24 < 25 ∧ 2 ^ 64 - 1 < 2 ^ 64 ∧
      (LaneRef.coord 4 4 = .index 24 ∨ ∃ x y, x < 5 ∧ y < 5 ∧ 24 = x + 5 * y ∧ LaneRef.coord 4 4 = .coord x y)) ∧
    expandPseudo (.xrblk [7]) = .ok [.xrl 0 7] ∧
    List.Forall₂ (fun l bs => assemble l = .ok bs) [.nop, .rdl (.index 24)]
      [[{ cw := 0, d := 0 }], [{ cw := 0x3018, d := 0 }]] :=
  ⟨⟨by decide, by decide, .inr ⟨4, 4, by decide, by decide, by decide, rfl⟩⟩, by decide,
    .cons (by decide) (.cons (by decide) .nil)⟩

/-- Only lane 0 is defined, and one lane is XORed; and the empty block on an IDLE machine. -/
theorem witness_XrblkXorsTheFirstLanes :
    (let s : State := { cleared with defined := tabulate fun i => i == 0 }
    [7#64].length ≤ 25 ∧ ([7#64] = [] → s.ctl = .idle) ∧ ∀ i : LaneIdx, i.val < [7#64].length → s.isDefined i = true) ∧
    (([] : List Word).length ≤ 25 ∧ State.reset.ctl = .idle ∧
      ∀ i : LaneIdx, i.val < ([] : List Word).length → State.reset.isDefined i = true) :=
  ⟨by decide, by decide, rfl, by simp⟩

theorem witness_XrbChangesOneByte : cleared.isDefined (laneOfByte 199) = true := by decide

theorem cleared_booted : cleared.booted := by unfold State.booted; decide

theorem witness_RdallReadsTheState : cleared.booted := cleared_booted

theorem witness_WrlWritesOneLane : (24#5).toNat < 25 := by decide

theorem witness_XrlXorsADefinedLane : (24#5).toNat = (24 : LaneIdx).val ∧ cleared.isDefined 24 = true := by decide

theorem witness_XrlOfAnUndefinedLane : (24#5).toNat = (24 : LaneIdx).val ∧ onlyLane3.isDefined 24 = false := by decide

theorem witness_RdlReturnsTheLane : (24#5).toNat = (24 : LaneIdx).val := by decide

theorem witness_PermAppliesKeccakF : cleared.booted := cleared_booted

theorem witness_PermWithAnUndefinedLane :
    (let s : State := { cleared with defined := tabulate fun i => i.val < 24 }
    s.isDefined 24 = false ∧ ∀ j : LaneIdx, j < 24 → s.isDefined j = true) := by decide

theorem witness_ReservedLanesAreIllegal :
    25 ≤ (25#5).toNat ∧ (Instr.rdl 25 = .wrl 25 0 ∨ Instr.rdl 25 = .xrl 25 0 ∨ Instr.rdl 25 = .rdl 25) := by decide

theorem witness_IllegalCommandOnlySetsStatus :
    decode 0xF01F 0 = .illegal .badOp ∧ decode 0x103F 0 = .illegal .badField ∧ decode 0x301F 0 = .illegal .badLane := by
  decide

theorem witness_RepeatedWrites :
    ((24#5).toNat = (24 : LaneIdx).val ∧ cleared.isDefined 24 = true) ∧ (24#5).toNat < 25 := by decide

theorem witness_Rotl64IsACircularShift : 63 < 64 := by decide

theorem witness_ThetaLaw : ∃ C D : Nat → Word,
    (∀ x, x < 5 → C x = testS[laneAt x 0] ^^^ testS[laneAt x 1] ^^^ testS[laneAt x 2] ^^^ testS[laneAt x 3] ^^^
      testS[laneAt x 4]) ∧
    (∀ x, x < 5 → D x = C ((x + 4) % 5) ^^^ rotl64 (C ((x + 1) % 5)) 1) :=
  ⟨_, _, fun _ _ => rfl, fun _ _ => rfl⟩

/-- V-T3. -/
theorem witness_ThetaFixesEvenColumns :
    (let A : Lanes := tabulate fun i => if i = 0 ∨ i = 5 then 0x00000000DEADBEEF else 0
    ∀ x, x < 5 → A[laneAt x 0] ^^^ A[laneAt x 1] ^^^ A[laneAt x 2] ^^^ A[laneAt x 3] ^^^ A[laneAt x 4] = 0) := by
  decide +kernel

theorem witness_PiLaw : 4 < 5 ∧ 0 < 5 := by decide

/-- Two states with the same row 4 and different other rows. -/
theorem witness_ChiLaw :
    (let B : Lanes := tabulate fun i => if i.val < 20 then 1 else BitVec.ofNat 64 i.val
    4 < 5 ∧ testS ≠ B ∧ ∀ x, x < 5 → testS[laneAt x 4] = B[laneAt x 4]) := by decide +kernel

theorem witness_IotaLaw : (24 : LaneIdx) ≠ 0 := by decide

/-- The rounds, followed from `A` for as long as there are any. -/
def roundsFrom (A : Lanes) : Nat → Lanes
  | 0 => A
  | n + 1 => if h : n < 24 then iota (chi (pi (rho (theta (roundsFrom A n))))) ⟨n, h⟩ else roundsFrom A n

theorem witness_KeccakIsTwentyFourRounds : ∀ ir : RoundIdx,
    roundsFrom testS (ir.val + 1) = iota (chi (pi (rho (theta (roundsFrom testS ir.val))))) ir := by
  intro ir
  rw [roundsFrom, dif_pos ir.isLt]

theorem witness_StepRunsTheDecodedCommand :
    (running 0x1018 5 cleared).ctl = .exec { cw := 0x1018, d := 5 } ∧ (running 0x1018 5 cleared).pins.rst = false ∧
    (running 0x1018 5 cleared).hostKeepsDuty = true ∧ decode 0x1018 5 = .cmd (.wrl 24 5) := by decide

theorem witness_FetchWordRunsNext : decodeTableWord 16 0x5000 = some .perm := by decide

/-- A state for each of the four clauses. -/
theorem witness_PortHandshake :
    (let s : State := { cleared with inputs := [{ rst := false, cmd := some { cw := 0, d := 0 }, rspReady := false }] }
    s.pins.rst = false ∧ s.hostKeepsDuty = true ∧ s.ctl = .idle ∧ s.pins.cmd = some { cw := 0, d := 0 }) ∧
    (cleared.pins.rst = false ∧ cleared.hostKeepsDuty = true ∧ cleared.ctl = .idle ∧ cleared.pins.cmd = none) ∧
    (let s : State := { cleared with ctl := .resp ⟨1, 0⟩, inputs := [{ rst := false, cmd := none, rspReady := true }] }
    s.pins.rst = false ∧ s.hostKeepsDuty = true ∧ s.ctl = .resp ⟨1, 0⟩ ∧ s.pins.rspReady = true) ∧
    (let s : State := { cleared with ctl := .resp ⟨1, 0⟩ }
    s.pins.rst = false ∧ s.hostKeepsDuty = true ∧ s.ctl = .resp ⟨1, 0⟩ ∧ s.pins.rspReady = false) := by decide

/-- A block in RESP with a reset at the coming edge. -/
def resetComing : State :=
  { cleared with
    ctl := .resp ⟨1, 0⟩, status := ⟨true, 3⟩, inputs := [{ rst := true, cmd := none, rspReady := true }] }

/-- R64, R151, R152: a response held when a reset comes is shown up to the edge, not delivered by it, and gone after it. -/
theorem test_reset_drops_response : resetComing.outputs.rsp = some ⟨1, 0⟩ ∧ resetComing.outputs.cmdReady = false ∧
    (match step resetComing with
    | .next t => t.outputs.rsp == none && t.delivered == []
    | .fault _ => false | .refused _ => false) = true := by decide

theorem witness_OutputPins : resetComing.pins.rst = true ∧
    (∃ t, step { resetComing with inputs := resetComing.inputs ++ resetComing.inputs } = .next t ∧ t.pins.rst = true) :=
  ⟨by decide, _, rfl, by decide⟩

theorem witness_ResetEdge : resetComing.pins.rst = true := by decide

theorem witness_ResetEdgeFreesTheLanes : resetComing.pins.rst = true := by decide

/-- A block about to run an illegal command, STATUS already set by an earlier one. -/
def illegalAgain : State := { running 0x7000 0 cleared with status := ⟨true, 3⟩ }

theorem witness_StepKeepsTheInvariant : illegalAgain.inv ∧ ∃ t, step illegalAgain = .next t :=
  ⟨⟨by decide, by decide, by simp [illegalAgain, running, cleared, booted, State.reset]⟩, _, rfl⟩

theorem witness_StatusIsSticky :
    ((∃ t, step illegalAgain = .next t) ∧ illegalAgain.pins.rst = false ∧ illegalAgain.status.illegal = true) ∧
    ((∃ t, step resetComing = .next t) ∧ resetComing.pins.rst = true) ∧ decode 0x7000 0 = .illegal .badOp :=
  ⟨⟨⟨_, rfl⟩, by decide, by decide⟩, ⟨⟨_, rfl⟩, by decide⟩, by decide⟩

theorem witness_OnlyIllegalCommandsChangeStatus :
    ∃ t, step (running 0x7000 0 cleared) = .next t ∧ (running 0x7000 0 cleared).pins.rst = false ∧
      t.status ≠ (running 0x7000 0 cleared).status := ⟨_, rfl, by decide, by decide⟩

theorem witness_OnlyLaneCommandsChangeLanes :
    ∃ t, step (running 0x1018 5 cleared) = .next t ∧ (running 0x1018 5 cleared).pins.rst = false ∧
      (t.lanes ≠ (running 0x1018 5 cleared).lanes ∨ t.defined ≠ (running 0x1018 5 cleared).defined) :=
  ⟨_, rfl, by decide, .inl (by decide)⟩

theorem witness_FaultsAreNeverCleared :
    (let s : State := { resetComing with raised := some (.unwrittenLane 24) }
    s.raised = some (.unwrittenLane 24) ∧ ∃ t, step s = .next t) := ⟨rfl, _, rfl⟩

theorem witness_BootedStaysBooted :
    (running 0x5000 0 cleared).booted ∧ (running 0x5000 0 cleared).pins.rst = false ∧
      ∃ t, step (running 0x5000 0 cleared) = .next t :=
  ⟨cleared_booted, by decide, _, rfl⟩

/-- The hypotheses, and for each disjunct (RDL, XRL, PERM) a strict step that stops: of the last lane, and, for PERM, in
a state of which only lane 3 is defined, of the lowest. -/
theorem witness_StrictStepFaultsOnUndefinedLanes :
    ((running 0x3018 0 onlyLane3).raised = none ∧
      (running 0x3018 0 onlyLane3).ctl = .exec { cw := 0x3018, d := 0 } ∧
      (running 0x3018 0 onlyLane3).pins.rst = false ∧ (running 0x3018 0 onlyLane3).hostKeepsDuty = true) ∧
    strictStep (running 0x3018 0 onlyLane3) = .fault (.unwrittenLane 24) ∧
    strictStep (running 0x2018 9 onlyLane3) = .fault (.unwrittenLane 24) ∧
    strictStep (running 0x5000 0 onlyLane3) = .fault (.unwrittenLane 0) :=
  ⟨by decide, rfl, rfl, rfl⟩

/-- Two states that differ in the undefined lane 4 only, and a strict step of RDL of the defined lane 3. -/
theorem witness_StrictStepIgnoresUnspecifiedLanes :
    (running 0x3003 0 onlyLane3).agree (running 0x3003 0 (onlyLane3.setLane 4 9)) ∧
    (running 0x3003 0 onlyLane3).lane 4 ≠ (running 0x3003 0 (onlyLane3.setLane 4 9)).lane 4 ∧
    ∃ t, strictStep (running 0x3003 0 onlyLane3) = .next t :=
  ⟨⟨rfl, rfl, rfl, rfl, rfl, rfl, rfl, rfl, by decide⟩, by decide, _, rfl⟩

/-- A block in RESP whose host offers PERM at two edges and takes nothing. -/
def offeredWhileHeld : State :=
  let pins : PortIn := { rst := false, cmd := some { cw := 0x5000, d := 0 }, rspReady := false }
  { cleared with ctl := .resp ⟨1, 0⟩, inputs := [pins, pins] }

theorem witness_UntakenResponseIsHeld :
    offeredWhileHeld.ctl = .resp ⟨1, 0⟩ ∧ offeredWhileHeld.keepsOffer 2 ∧
    (∀ k, k < 2 → (offeredWhileHeld.pinsAt k).rst = false ∧ (offeredWhileHeld.pinsAt k).rspReady = false) ∧
    (offeredWhileHeld.pinsAt 1).cmd = some { cw := 0x5000, d := 0 } := by
  refine ⟨by decide, ⟨fun b _ h => (nomatch h), fun k b hk h => ?_⟩, by decide, by decide⟩
  obtain rfl : k = 0 := by omega
  exact h

theorem witness_SequencesRunAtomicallyInOrder :
    (let s : State := { cleared with inputs := hostPlan [{ cw := 0x5000, d := 0 }, { cw := 0x7000, d := 1 }] }
    s.ctl = .idle ∧ s.held = none ∧ s.inputs = hostPlan [{ cw := 0x5000, d := 0 }, { cw := 0x7000, d := 1 }]) :=
  ⟨rfl, rfl, rfl⟩

theorem witness_OneResponsePerCommand : cleared.ctl = .idle := rfl

theorem witness_ResponseComesAfterTheLatency :
    (let s : State := { cleared with inputs := [{ rst := false, cmd := some { cw := 0x5000, d := 0 }, rspReady := false }] }
    s.ctl = .idle ∧ s.held = none ∧
      s.inputs = [{ rst := false, cmd := some { cw := 0x5000, d := 0 }, rspReady := false }]) ∧
    0 < latencyOf ⟨24, 1, by decide, by decide⟩ { cw := 0x5000, d := 0 } := by decide

theorem witness_BlocksShareNothing : ∃ after, stepBlock 1 [cleared, illegalAgain] = some (.next after) := ⟨_, rfl⟩

end Sys2Proof.Tests
end

section
/-! SUPPORT. One edge and one command, forwards and inverted: what `step` and `exec` answer in each case, what they leave
of the lanes and STATUS, and that decoded commands name a lane (30_encoding.md R65, R67; 40_lane_access.md R80). -/

namespace Sys2Proof

/-- A command is well formed exactly when the lane it uses, if any, is a lane. -/
theorem Instr.wellFormed_iff (i : Instr) : i.wellFormed = true ↔ (i.usesLane = true → i.laneBits.toNat < 25) := by
  cases i <;> simp [Instr.wellFormed, Instr.usesLane, Instr.laneBits, laneLegal]

theorem wellFormed_of_decode {cw : BitVec 16} {d : Word} {i : Instr} (h : decode cw d = .cmd i) :
    i.wellFormed = true := by
  obtain ⟨hc, -, -, hlt⟩ := decode_cmd h
  obtain ⟨-, hlane, -⟩ := commandOf_fields hc
  refine i.wellFormed_iff.2 fun hu => ?_
  rw [hlane, if_pos hu]
  exact hlt hu

theorem lt_of_laneLegal {lane : BitVec 5} (h : laneLegal lane = true) : lane.toNat < 25 := of_decide_eq_true h

namespace Machine

variable {s t : State}

/-! ### Reading a lane or a flag after an operation -/

@[simp] theorem lane_respond (s : State) (data : Word) (err : BitVec 2) (j : LaneIdx) :
    (s.respond data err).lane j = s.lane j := rfl
@[simp] theorem isDefined_respond (s : State) (data : Word) (err : BitVec 2) (j : LaneIdx) :
    (s.respond data err).isDefined j = s.isDefined j := rfl
@[simp] theorem lane_define (s : State) (i j : LaneIdx) : (s.define i).lane j = s.lane j := rfl
@[simp] theorem isDefined_setLane (s : State) (i j : LaneIdx) (v : Word) :
    (s.setLane i v).isDefined j = s.isDefined j := rfl
@[simp] theorem lane_touch (s : State) (i j : LaneIdx) : (s.touch i).lane j = s.lane j := by simp [State.lane]
@[simp] theorem isDefined_touch (s : State) (i j : LaneIdx) : (s.touch i).isDefined j = s.isDefined j := by
  simp [State.isDefined]
@[simp] theorem isDefined_xorLane (s : State) (i j : LaneIdx) (v : Word) :
    (s.xorLane i v).isDefined j = s.isDefined j := by simp [State.isDefined]

theorem lane_xorLane_of_ne {i j : LaneIdx} (h : j ≠ i) (s : State) (v : Word) : (s.xorLane i v).lane j = s.lane j := by
  cases hd : s.isDefined i
  · rw [xorLane_of_undefined hd, lane_freeOne, if_neg h]
  · rw [xorLane_of_defined hd, lane_setLane, if_neg h]

/-- Touching a lane raises no fault only if the lane is defined. -/
theorem isDefined_of_touch_raised {i : LaneIdx} (h : (s.touch i).raised = none) : s.isDefined i = true := by
  by_contra hd
  simp [touch_of_undefined (Bool.eq_false_iff.2 hd)] at h

/-! ### The commands on a lane that exists -/

theorem exec_wrl_of_lt {lane : BitVec 5} (h : lane.toNat < 25) (d : Word) (s : State) :
    exec (.wrl lane d) s = .next (((s.setLane ⟨lane.toNat, h⟩ d).define ⟨lane.toNat, h⟩).respond 0 0) :=
  onLane_of_lt h s _

theorem exec_xrl_of_lt {lane : BitVec 5} (h : lane.toNat < 25) (d : Word) (s : State) :
    exec (.xrl lane d) s = .next (((s.touch ⟨lane.toNat, h⟩).xorLane ⟨lane.toNat, h⟩ d).respond 0 0) :=
  onLane_of_lt h s _

theorem exec_rdl_of_lt {lane : BitVec 5} (h : lane.toNat < 25) (s : State) :
    exec (.rdl lane) s = .next ((s.touch ⟨lane.toNat, h⟩).respond (s.lane ⟨lane.toNat, h⟩) 0) :=
  onLane_of_lt h s _

/-- A well-formed command leaves STATUS alone and answers without an error (30_encoding.md R66). -/
theorem exec_status_ctl {i : Instr} (hw : i.wellFormed = true) (h : exec i s = .next t) :
    t.status = s.status ∧ ∃ data, t.ctl = .resp { data, err := 0 } := by
  cases i with
  | nop => cases h; exact ⟨rfl, _, rfl⟩
  | wrl lane d => rw [exec_wrl_of_lt (lt_of_laneLegal hw)] at h; cases h; exact ⟨rfl, _, rfl⟩
  | xrl lane d => rw [exec_xrl_of_lt (lt_of_laneLegal hw)] at h; cases h; exact ⟨by simp, _, rfl⟩
  | rdl lane => rw [exec_rdl_of_lt (lt_of_laneLegal hw)] at h; cases h; exact ⟨by simp, _, rfl⟩
  | clr => cases h; exact ⟨rfl, _, rfl⟩
  | perm =>
    cases hu : s.firstUndefined with
    | none => rw [exec, execPerm_of_defined hu] at h; cases h; exact ⟨rfl, _, rfl⟩
    | some k => rw [exec, execPerm_of_undefined hu] at h; cases h; exact ⟨rfl, _, rfl⟩
  | rds => cases h; exact ⟨rfl, _, rfl⟩

/-- Only WRL, XRL, CLR and PERM change a lane or a flag, and WRL and XRL no lane or flag but their own. -/
theorem exec_changes_lanes {i : Instr} (hw : i.wellFormed = true) (h : exec i s = .next t)
    (hne : t.lanes ≠ s.lanes ∨ t.defined ≠ s.defined) :
    i = .clr ∨ i = .perm ∨ ∃ lane d, (i = .wrl lane d ∨ i = .xrl lane d) ∧
      ∀ j : LaneIdx, j.val ≠ lane.toNat → t.lane j = s.lane j ∧ t.isDefined j = s.isDefined j := by
  cases i with
  | nop => cases h; simp at hne
  | wrl lane d =>
    rw [exec_wrl_of_lt (lt_of_laneLegal hw)] at h
    cases h
    refine .inr (.inr ⟨lane, d, .inl rfl, fun j hj => ?_⟩)
    have hj : j ≠ ⟨lane.toNat, lt_of_laneLegal hw⟩ := fun e => hj (congrArg Fin.val e)
    exact ⟨by simp [lane_setLane, hj], by simp [isDefined_define, hj]⟩
  | xrl lane d =>
    rw [exec_xrl_of_lt (lt_of_laneLegal hw)] at h
    cases h
    refine .inr (.inr ⟨lane, d, .inr rfl, fun j hj => ?_⟩)
    have hj : j ≠ ⟨lane.toNat, lt_of_laneLegal hw⟩ := fun e => hj (congrArg Fin.val e)
    exact ⟨by simp [lane_xorLane_of_ne hj], by simp⟩
  | rdl lane => rw [exec_rdl_of_lt (lt_of_laneLegal hw)] at h; cases h; simp at hne
  | clr => exact .inl rfl
  | perm => exact .inr (.inl rfl)
  | rds => cases h; simp at hne

/-! ### One edge -/

theorem accept_of_cmd {b : Beat} (h : s.pins.cmd = some b) : s.accept = { s.passEdge with ctl := .exec b } := by
  rw [State.accept, h]

theorem accept_of_no_cmd (h : s.pins.cmd = none) : s.accept = s.passEdge := by rw [State.accept, h]

theorem offerResponse_of_ready (h : s.pins.rspReady = true) (r : Response) :
    s.offerResponse r = { s.passEdge with ctl := .idle, delivered := s.delivered ++ [r] } := if_pos h

theorem offerResponse_of_not_ready (h : s.pins.rspReady = false) (r : Response) : s.offerResponse r = s.passEdge :=
  if_neg (by simp [h])

@[simp] theorem accept_lanes (s : State) : s.accept.lanes = s.lanes := by unfold State.accept; split <;> rfl
@[simp] theorem accept_defined (s : State) : s.accept.defined = s.defined := by unfold State.accept; split <;> rfl
@[simp] theorem accept_status (s : State) : s.accept.status = s.status := by unfold State.accept; split <;> rfl
@[simp] theorem accept_delivered (s : State) : s.accept.delivered = s.delivered := by
  unfold State.accept; split <;> rfl
@[simp] theorem offerResponse_lanes (s : State) (r : Response) : (s.offerResponse r).lanes = s.lanes := by
  unfold State.offerResponse; split <;> rfl
@[simp] theorem offerResponse_defined (s : State) (r : Response) : (s.offerResponse r).defined = s.defined := by
  unfold State.offerResponse; split <;> rfl
@[simp] theorem offerResponse_status (s : State) (r : Response) : (s.offerResponse r).status = s.status := by
  unfold State.offerResponse; split <;> rfl

theorem execBeat_of_cmd {b : Beat} {i : Instr} (h : decode b.cw b.d = .cmd i) (s : State) :
    execBeat b s = exec i s := by rw [execBeat, h]

theorem execBeat_of_illegal {b : Beat} {c : Cause} (h : decode b.cw b.d = .illegal c) (s : State) :
    execBeat b s = .next (s.raiseIllegal c) := by rw [execBeat, h]

theorem step_of_rst (h : s.pins.rst = true) : step s = .next s.passEdge.resetAction := by
  simp [step, clockEdge, h]

theorem step_of_idle (hr : s.pins.rst = false) (hd : s.hostKeepsDuty = true) (hc : s.ctl = .idle) :
    step s = .next s.accept := by simp [step, clockEdge, hr, hd, hc]

theorem step_of_exec {b : Beat} (hr : s.pins.rst = false) (hd : s.hostKeepsDuty = true) (hc : s.ctl = .exec b) :
    step s = execBeat b s.passEdge := by simp [step, clockEdge, hr, hd, hc]

theorem step_of_resp {r : Response} (hr : s.pins.rst = false) (hd : s.hostKeepsDuty = true) (hc : s.ctl = .resp r) :
    step s = .next (s.offerResponse r) := by simp [step, clockEdge, hr, hd, hc]

/-- Where a step answers a next state: the reset; or, of a host that keeps its duty, the IDLE case, the completion of a
legal command, that of an illegal one, or the RESP case. -/
theorem step_next_cases (h : step s = .next t) :
    (s.pins.rst = true ∧ t = s.passEdge.resetAction) ∨
      (s.pins.rst = false ∧ s.hostKeepsDuty = true ∧
        ((s.ctl = .idle ∧ t = s.accept) ∨
          (∃ b i, s.ctl = .exec b ∧ decode b.cw b.d = .cmd i ∧ exec i s.passEdge = .next t) ∨
          (∃ b c, s.ctl = .exec b ∧ decode b.cw b.d = .illegal c ∧ t = s.passEdge.raiseIllegal c) ∨
          (∃ r, s.ctl = .resp r ∧ t = s.offerResponse r))) := by
  obtain ⟨hr, e⟩ | ⟨-, -, e⟩ | ⟨hr, hd, ⟨hc, e⟩ | ⟨b, hc, e⟩ | ⟨r, hc, e⟩⟩ := step_cases s <;> rw [e] at h
  · cases h; exact .inl ⟨hr, rfl⟩
  · cases h
  · cases h; exact .inr ⟨hr, hd, .inl ⟨hc, rfl⟩⟩
  · refine .inr ⟨hr, hd, .inr ?_⟩
    obtain ⟨i, hi, e⟩ | ⟨c, hc', e⟩ := execBeat_cases b s.passEdge <;> rw [e] at h
    · exact .inl ⟨b, i, hc, hi, h⟩
    · cases h; exact .inr (.inl ⟨b, c, hc, hc', rfl⟩)
  · cases h; exact .inr ⟨hr, hd, .inr (.inr (.inr ⟨r, hc, rfl⟩))⟩

end Machine

end Sys2Proof
end

section
/-! PROOFS. The invariant, and what changes STATUS and the lanes (10_state.md R26, R29, R31; 30_encoding.md R66). -/

namespace Sys2Proof.Machine

variable {s t : State}

/-! ### The invariant, operation by operation -/

theorem inv_passEdge (h : s.inv) : s.passEdge.inv := h

/-- The reset action keeps the invariant: it clears STATUS and holds no response. -/
theorem inv_resetAction (h : s.inv) : s.resetAction.inv := by
  obtain ⟨-, -, hdel⟩ := h
  exact ⟨rfl, rfl, hdel⟩

/-- The illegal-command outcome keeps the invariant: its response carries no data, and `ILLEGAL` is set with it. -/
theorem inv_raiseIllegal (h : s.inv) (c : Cause) : (s.raiseIllegal c).inv := by
  obtain ⟨hst, -, hdel⟩ := h
  exact ⟨record_legal hst c, by simp [Ctl.legal, Response.legal], hdel⟩

/-- A well-formed command keeps the invariant: its response carries no error. -/
theorem inv_exec {i : Instr} (hw : i.wellFormed = true) (h : s.inv) (he : exec i s = .next t) : t.inv := by
  obtain ⟨hst, -, hdel⟩ := h
  obtain ⟨hstatus, data, hctl⟩ := exec_status_ctl hw he
  obtain ⟨-, -, hdelivered⟩ := exec_keeps_host he
  exact ⟨hstatus ▸ hst, by simp [hctl, Ctl.legal, Response.legal], hdelivered ▸ hdel⟩

theorem inv_accept (h : s.inv) : s.accept.inv := by
  cases hc : s.pins.cmd with
  | none => rw [accept_of_no_cmd hc]; exact inv_passEdge h
  | some b =>
    obtain ⟨hst, -, hdel⟩ := h
    rw [accept_of_cmd hc]
    exact ⟨hst, rfl, hdel⟩

/-- Handing over the held response keeps the invariant, the response having been legal while it was held. -/
theorem inv_offerResponse (h : s.inv) {r : Response} (hr : s.ctl = .resp r) : (s.offerResponse r).inv := by
  cases hrdy : s.pins.rspReady with
  | false => rw [offerResponse_of_not_ready hrdy]; exact inv_passEdge h
  | true =>
    obtain ⟨hst, hctl, hdel⟩ := h
    rw [hr, Ctl.legal, Bool.and_eq_true] at hctl
    obtain ⟨hlegal, -⟩ := hctl
    rw [offerResponse_of_ready hrdy]
    refine ⟨hst, rfl, fun q hq => ?_⟩
    obtain hq | hq := List.mem_append.1 hq
    · exact hdel q hq
    · rwa [List.mem_singleton.1 hq]

/-- Settles O45: each case of a step is an operation that keeps the invariant. -/
theorem stepKeepsTheInvariant : Obligations.StepKeepsTheInvariant := by
  intro s t hs h
  obtain ⟨-, rfl⟩ | ⟨-, -, ⟨-, rfl⟩ | ⟨b, i, -, hi, he⟩ | ⟨b, c, -, -, rfl⟩ | ⟨r, hr, rfl⟩⟩ := step_next_cases h
  · exact inv_resetAction (inv_passEdge hs)
  · exact inv_accept hs
  · exact inv_exec (wellFormed_of_decode hi) (inv_passEdge hs) he
  · exact inv_raiseIllegal (inv_passEdge hs) c
  · exact inv_offerResponse hs hr

/-- Settles O44, at the reset state. -/
theorem resetMeetsTheInvariant : Obligations.ResetMeetsTheInvariant :=
  ⟨rfl, rfl, fun _ hr => nomatch hr⟩

/-- Settles O43, field by field. -/
theorem resetValues : Obligations.ResetValues :=
  ⟨rfl, rfl, rfl, rfl, rfl, fun i => tabulate_get (fun _ => false) i⟩

/-- Settles O47: in every case of a step but the illegal command's, STATUS is what it was. -/
theorem onlyIllegalCommandsChangeStatus : Obligations.OnlyIllegalCommandsChangeStatus := by
  intro s t h hrst hne
  obtain ⟨hr, -⟩ | ⟨-, -, ⟨-, rfl⟩ | ⟨b, i, -, hi, he⟩ | ⟨b, c, hb, hc, -⟩ | ⟨r, -, rfl⟩⟩ := step_next_cases h
  · simp [hrst] at hr
  · simp at hne
  · exact absurd (exec_status_ctl (wellFormed_of_decode hi) he).1 hne
  · exact ⟨b, c, hb, hc⟩
  · simp at hne

/-- Settles O48: in every case of a step but the legal command's, lanes and flags are what they were. -/
theorem onlyLaneCommandsChangeLanes : Obligations.OnlyLaneCommandsChangeLanes := by
  intro s t h hrst hne
  obtain ⟨hr, -⟩ | ⟨-, -, ⟨-, rfl⟩ | ⟨b, i, hb, hi, he⟩ | ⟨b, c, -, -, rfl⟩ | ⟨r, -, rfl⟩⟩ := step_next_cases h
  · simp [hrst] at hr
  · simp at hne
  · exact ⟨b, i, hb, hi, exec_changes_lanes (s := s.passEdge) (wellFormed_of_decode hi) he hne⟩
  · simp at hne
  · simp at hne

end Sys2Proof.Machine
end

section
/-! PROOFS. Agreement up to the contents of undefined lanes: which operations keep it, and that a strict step does
(10_state.md R22; 60_exceptions.md R136; 92_eei_decisions.md D8, D10). -/

namespace Sys2Proof.Machine

variable {s s' t : State}

/-- A state that agrees with `s` is `s` with other lanes, the same where they are defined. -/
theorem agree_iff : s.agree s' ↔
    ∃ A : Lanes, s' = { s with lanes := A } ∧ ∀ i : LaneIdx, s.isDefined i = true → s.lane i = A[i] := by
  constructor
  · rintro ⟨hdef, hctl, hst, hraised, hfree, hin, hheld, hdel, hlane⟩
    exact ⟨s'.lanes, by rw [hdef, hctl, hst, hraised, hfree, hin, hheld, hdel], hlane⟩
  · rintro ⟨A, rfl, hlane⟩
    exact ⟨rfl, rfl, rfl, rfl, rfl, rfl, rfl, rfl, hlane⟩

theorem agree_refl (s : State) : s.agree s := agree_iff.2 ⟨s.lanes, rfl, fun _ _ => rfl⟩

/-! ### What agreeing states share -/

theorem agree_isDefined (h : s.agree s') (i : LaneIdx) : s'.isDefined i = s.isDefined i := by
  obtain ⟨A, rfl, -⟩ := agree_iff.1 h; rfl

theorem agree_lane (h : s.agree s') {i : LaneIdx} (hi : s.isDefined i = true) : s'.lane i = s.lane i := by
  obtain ⟨A, rfl, hA⟩ := agree_iff.1 h; exact (hA i hi).symm

theorem agree_raised (h : s.agree s') : s'.raised = s.raised := by
  obtain ⟨A, rfl, -⟩ := agree_iff.1 h; rfl

/-- Booted states that agree are the same. -/
theorem eq_of_agree_of_booted (h : s.agree s') (hb : s.booted) : s' = s := by
  obtain ⟨A, rfl, hA⟩ := agree_iff.1 h
  rw [← (vector_ext fun i => hA i (hb i) : s.lanes = A)]

/-! ### Operations that keep the agreement -/

theorem agree_passEdge (h : s.agree s') : s.passEdge.agree s'.passEdge := by
  obtain ⟨A, rfl, hA⟩ := agree_iff.1 h; exact agree_iff.2 ⟨A, rfl, hA⟩

theorem agree_respond (h : s.agree s') (data : Word) (err : BitVec 2) :
    (s.respond data err).agree (s'.respond data err) := by
  obtain ⟨A, rfl, hA⟩ := agree_iff.1 h; exact agree_iff.2 ⟨A, rfl, hA⟩

theorem agree_raiseIllegal (h : s.agree s') (c : Cause) : (s.raiseIllegal c).agree (s'.raiseIllegal c) := by
  obtain ⟨A, rfl, hA⟩ := agree_iff.1 h; exact agree_iff.2 ⟨A, rfl, hA⟩

theorem agree_setLane (h : s.agree s') (i : LaneIdx) (v : Word) : (s.setLane i v).agree (s'.setLane i v) := by
  obtain ⟨A, rfl, hA⟩ := agree_iff.1 h
  refine agree_iff.2 ⟨A.set i v, rfl, fun j hj => ?_⟩
  rw [lane_setLane, getElem_set_lane, hA j hj]

/-- Defining a lane keeps the agreement where the two states hold the same in it. -/
theorem agree_define (h : s.agree s') {i : LaneIdx} (hi : s.lane i = s'.lane i) : (s.define i).agree (s'.define i) := by
  obtain ⟨A, rfl, hA⟩ := agree_iff.1 h
  refine agree_iff.2 ⟨A, rfl, fun j hj => ?_⟩
  rw [isDefined_define, Bool.or_eq_true, beq_iff_eq] at hj
  obtain hj | rfl := hj
  · exact hA j hj
  · exact hi

theorem agree_accept (h : s.agree s') : s.accept.agree s'.accept := by
  obtain ⟨A, rfl, hA⟩ := agree_iff.1 h
  cases hc : s.pins.cmd with
  | none => rw [accept_of_no_cmd hc, accept_of_no_cmd (s := { s with lanes := A }) hc]; exact agree_passEdge h
  | some b =>
    rw [accept_of_cmd hc, accept_of_cmd (s := { s with lanes := A }) hc]
    exact agree_iff.2 ⟨A, rfl, hA⟩

theorem agree_offerResponse (h : s.agree s') (r : Response) : (s.offerResponse r).agree (s'.offerResponse r) := by
  obtain ⟨A, rfl, hA⟩ := agree_iff.1 h
  cases hc : s.pins.rspReady with
  | false =>
    rw [offerResponse_of_not_ready hc, offerResponse_of_not_ready (s := { s with lanes := A }) hc]
    exact agree_passEdge h
  | true =>
    rw [offerResponse_of_ready hc, offerResponse_of_ready (s := { s with lanes := A }) hc]
    exact agree_iff.2 ⟨A, rfl, hA⟩

/-- A well-formed command that raises no fault keeps the agreement: RDL, XRL and PERM then read defined lanes only, and
WRL and CLR read none. -/
theorem agree_exec {i : Instr} (hw : i.wellFormed = true) (hs : s.agree s') (h : exec i s = .next t)
    (hr : t.raised = none) : ∃ t', exec i s' = .next t' ∧ t.agree t' := by
  cases i with
  | nop => cases h; exact ⟨_, rfl, agree_respond hs 0 0⟩
  | wrl lane d =>
    have hl := lt_of_laneLegal hw
    rw [exec_wrl_of_lt hl] at h
    cases h
    refine ⟨_, exec_wrl_of_lt hl d s', agree_respond (agree_define (agree_setLane hs _ d) ?_) 0 0⟩
    rw [lane_setLane, lane_setLane, if_pos rfl, if_pos rfl]
  | xrl lane d =>
    have hl := lt_of_laneLegal hw
    rw [exec_xrl_of_lt hl] at h
    cases h
    have hd := isDefined_of_touch_raised (by simpa using hr)
    have hd' := (agree_isDefined hs _).trans hd
    refine ⟨_, exec_xrl_of_lt hl d s', ?_⟩
    rw [touch_of_defined hd, xorLane_of_defined hd, touch_of_defined hd', xorLane_of_defined hd', agree_lane hs hd]
    exact agree_respond (agree_setLane hs _ _) 0 0
  | rdl lane =>
    have hl := lt_of_laneLegal hw
    rw [exec_rdl_of_lt hl] at h
    cases h
    have hd := isDefined_of_touch_raised (by simpa using hr)
    refine ⟨_, exec_rdl_of_lt hl s', ?_⟩
    rw [touch_of_defined hd, touch_of_defined ((agree_isDefined hs _).trans hd), agree_lane hs hd]
    exact agree_respond hs _ 0
  | clr =>
    cases h
    obtain ⟨A, rfl, -⟩ := agree_iff.1 hs
    exact ⟨_, rfl, agree_refl _⟩
  | perm =>
    cases hu : s.firstUndefined with
    | none =>
      obtain rfl := eq_of_agree_of_booted hs ((firstUndefined_eq_none s).1 hu)
      exact ⟨t, h, agree_refl t⟩
    | some k =>
      rw [exec, execPerm_of_undefined hu] at h
      cases h
      simp at hr
  | rds =>
    cases h
    obtain ⟨A, rfl, -⟩ := agree_iff.1 hs
    exact ⟨_, rfl, agree_respond hs _ 0⟩

/-- A step that ends with no fault raised keeps the agreement. -/
theorem agree_step (hs : s.agree s') (h : step s = .next t) (hr : t.raised = none) :
    ∃ t', step s' = .next t' ∧ t.agree t' := by
  obtain ⟨A, rfl, -⟩ := agree_iff.1 hs
  obtain ⟨hrst, rfl⟩ | ⟨hrst, hduty, ⟨hc, rfl⟩ | ⟨b, i, hb, hi, he⟩ | ⟨b, c, hb, hc, rfl⟩ | ⟨r, hc, rfl⟩⟩ :=
    step_next_cases h
  · exact ⟨_, step_of_rst (s := { s with lanes := A }) hrst, agree_refl _⟩
  · exact ⟨_, step_of_idle (s := { s with lanes := A }) hrst hduty hc, agree_accept hs⟩
  · rw [step_of_exec (s := { s with lanes := A }) hrst hduty hb, execBeat_of_cmd hi]
    exact agree_exec (wellFormed_of_decode hi) (agree_passEdge hs) he hr
  · rw [step_of_exec (s := { s with lanes := A }) hrst hduty hb, execBeat_of_illegal hc]
    exact ⟨_, rfl, agree_raiseIllegal (agree_passEdge hs) c⟩
  · exact ⟨_, step_of_resp (s := { s with lanes := A }) hrst hduty hc, agree_offerResponse hs r⟩

/-- A strict step succeeds exactly where a step does with no fault raised before it or after it. -/
theorem strictStep_eq_next : strictStep s = .next t ↔ s.raised = none ∧ step s = .next t ∧ t.raised = none := by
  unfold strictStep
  cases s.raised with
  | some f => simp
  | none =>
    cases step s with
    | next u =>
      simp only [Host.Outcome.next.injEq, true_and]
      constructor
      · intro h
        split at h
        · cases h
        · cases h; exact ⟨rfl, ‹_›⟩
      · rintro ⟨rfl, hu⟩
        rw [hu]
    | fault f => simp
    | refused r => simp

/-- Settles O53: a step without a fault keeps the agreement, and agreeing states have raised the same fault or none. -/
theorem strictStepIgnoresUnspecifiedLanes : Obligations.StrictStepIgnoresUnspecifiedLanes := by
  intro s s' t hs h
  obtain ⟨hr, hstep, hr'⟩ := strictStep_eq_next.1 h
  obtain ⟨t', hstep', ht⟩ := agree_step hs hstep hr'
  exact ⟨t', strictStep_eq_next.2 ⟨(agree_raised hs).trans hr, hstep', (agree_raised ht).trans hr'⟩, ht⟩

end Sys2Proof.Machine
end

section
/-! SUPPORT. A byte of the byte view after a lane is written, XRL of a defined lane, and a command performed whatever
the controller and the host's plan hold (20_memory.md R43, R46; 30_encoding.md R65, R71; 40_lane_access.md R83). -/

namespace Sys2Proof.Machine

variable {s t : State}

/-! ### Bytes -/

/-- Writing a lane changes no byte but those of that lane. -/
theorem byteView_set (A : Lanes) (i : LaneIdx) (v : Word) (k : Fin 200) :
    byteView (A.set i v) k = if laneOfByte k = i then v.extractLsb' (8 * (k.val % 8)) 8 else byteView A k := by
  rw [byteView, getElem_set_lane, apply_ite (BitVec.extractLsb' (8 * (k.val % 8)) 8), byteView]

/-- Of the lane value made for byte `j`, byte `j` is `imm` and every other byte of the lane is zero. -/
theorem extract_byteInLane {j k : Fin 200} (h : laneOfByte k = laneOfByte j) (imm : Byte) :
    (byteInLane j imm).extractLsb' (8 * (k.val % 8)) 8 = if k = j then imm else 0 := by
  have hlane : k.val / 8 = j.val / 8 := congrArg Fin.val h
  ext n hn
  simp only [← BitVec.getLsbD_eq_getElem, byteInLane, BitVec.getLsbD_extractLsb', BitVec.getLsbD_shiftLeft,
    BitVec.truncate_eq_setWidth, BitVec.getLsbD_setWidth]
  obtain rfl | hkj := eq_or_ne k j
  · have hbit : 8 * (k.val % 8) + n < 64 := by omega
    have hn' : n < 64 := by omega
    simp [hn, hn', hbit]
  · have hne : k.val % 8 ≠ j.val % 8 := fun e => hkj (Fin.ext (by omega))
    rw [if_neg hkj]
    obtain hlt | hlt := Nat.lt_or_gt_of_ne hne
    · have hbelow : 8 * (k.val % 8) + n < 8 * (j.val % 8) := by omega
      simp [hbelow]
    · have habove : 8 ≤ 8 * (k.val % 8) + n - 8 * (j.val % 8) := by omega
      simp [BitVec.getLsbD_of_ge imm _ habove]

/-! ### Commands -/

/-- XRL of a defined lane, whole (40_lane_access.md R83). -/
theorem exec_xrl_of_defined {lane : BitVec 5} {i : LaneIdx} (hl : lane.toNat = i.val) (hd : s.isDefined i = true)
    (d : Word) : exec (.xrl lane d) s = .next ((s.setLane i (s.lane i ^^^ d)).respond 0 0) := by
  have hi : (⟨lane.toNat, hl ▸ i.isLt⟩ : LaneIdx) = i := Fin.ext hl
  rw [exec_xrl_of_lt (hl ▸ i.isLt), hi, touch_of_defined hd, xorLane_of_defined hd]

theorem laneBitsOf_toNat (i : LaneIdx) : (laneBitsOf i).toNat = i.val := by revert i; decide

/-! ### The controller state and the host's plan, which no command reads -/

theorem touch_of_port (s : State) (c : Ctl) (p : List PortIn) (i : LaneIdx) :
    State.touch { s with ctl := c, inputs := p } i = { s.touch i with ctl := c, inputs := p } := by
  cases hd : s.isDefined i with
  | true => rw [touch_of_defined hd]; exact touch_of_defined hd
  | false => rw [touch_of_undefined hd]; exact touch_of_undefined hd

theorem xorLane_of_port (s : State) (c : Ctl) (p : List PortIn) (i : LaneIdx) (v : Word) :
    State.xorLane { s with ctl := c, inputs := p } i v = { s.xorLane i v with ctl := c, inputs := p } := by
  cases hd : s.isDefined i with
  | true =>
    rw [xorLane_of_defined hd]
    exact xorLane_of_defined (s := { s with ctl := c, inputs := p }) hd v
  | false =>
    rw [xorLane_of_undefined hd]
    exact xorLane_of_undefined (s := { s with ctl := c, inputs := p }) hd v

/-- The rule of a well-formed command reads neither the controller state nor the host's plan: it writes the one and
leaves the other. -/
theorem exec_of_port {i : Instr} (hw : i.wellFormed = true) (h : exec i s = .next t) (c : Ctl) (p : List PortIn) :
    exec i { s with ctl := c, inputs := p } = .next { t with inputs := p } := by
  cases i with
  | nop => cases h; rfl
  | wrl lane d =>
    have hl := lt_of_laneLegal hw
    rw [exec_wrl_of_lt hl] at h ⊢
    cases h; rfl
  | xrl lane d =>
    have hl := lt_of_laneLegal hw
    rw [exec_xrl_of_lt hl] at h ⊢
    cases h
    rw [touch_of_port, xorLane_of_port]; rfl
  | rdl lane =>
    have hl := lt_of_laneLegal hw
    rw [exec_rdl_of_lt hl] at h ⊢
    cases h
    rw [touch_of_port]; rfl
  | clr => cases h; rfl
  | perm =>
    cases hu : s.firstUndefined with
    | none =>
      rw [exec, execPerm_of_defined hu] at h
      rw [exec, execPerm_of_defined (s := { s with ctl := c, inputs := p }) hu]
      cases h; rfl
    | some k =>
      rw [exec, execPerm_of_undefined hu] at h
      rw [exec, execPerm_of_undefined (s := { s with ctl := c, inputs := p }) hu]
      cases h; rfl
  | rds => cases h; rfl

/-- Performing a beat, legal or not, reads neither the controller state nor the host's plan. -/
theorem execBeat_of_port {b : Beat} (h : execBeat b s = .next t) (c : Ctl) (p : List PortIn) :
    execBeat b { s with ctl := c, inputs := p } = .next { t with inputs := p } := by
  cases hb : decode b.cw b.d with
  | cmd i =>
    rw [execBeat_of_cmd hb] at h ⊢
    exact exec_of_port (wellFormed_of_decode hb) h c p
  | illegal e =>
    rw [execBeat_of_illegal hb] at h ⊢
    cases h; rfl

/-- Performing a beat always answers a next state that holds a response. -/
theorem execBeat_next (b : Beat) (s : State) : ∃ t r, execBeat b s = .next t ∧ t.ctl = .resp r := by
  obtain ⟨i, -, e⟩ | ⟨c, -, e⟩ := execBeat_cases b s <;> rw [e]
  · exact exec_next i s
  · exact ⟨_, _, rfl, rfl⟩

/-- Performing a beat touches nothing of the host's side of the state. -/
theorem execBeat_keeps_host {b : Beat} (h : execBeat b s = .next t) :
    t.inputs = s.inputs ∧ t.held = s.held ∧ t.delivered = s.delivered := by
  obtain ⟨i, -, e⟩ | ⟨c, -, e⟩ := execBeat_cases b s <;> rw [e] at h
  · exact exec_keeps_host h
  · cases h; exact ⟨rfl, rfl, rfl⟩

theorem takeResponse_of_resp {r : Response} (h : s.ctl = .resp r) :
    s.takeResponse = { s with ctl := .idle, delivered := s.delivered ++ [r] } := by rw [State.takeResponse, h]

end Sys2Proof.Machine
end

section
/-! PROOFS. The byte and bit views, repeated writes, and a sequence of commands through the port (20_memory.md R43, R44,
R46 to R48, R53). -/

namespace Sys2Proof.Machine

variable {s t : State}

/-- Settles O8: a byte is the lane shifted down to it, modulo 2^8. -/
theorem byteViewIsLittleEndian : Obligations.ByteViewIsLittleEndian := fun A j => by
  rw [byteView, BitVec.extractLsb'_toNat, Nat.shiftRight_eq_div_pow]; rfl

/-- Settles O9: `8j + k` splits at 64 into the lane of byte `j` and bit `8(j mod 8) + k` of it. -/
theorem bitViewAgreesWithByteView : Obligations.BitViewAgreesWithByteView := by
  intro A j k
  have hlane : laneOfBit ⟨8 * j.val + k.val, by omega⟩ = laneOfByte j :=
    Fin.ext (show (8 * j.val + k.val) / 64 = j.val / 8 by omega)
  have hbit : (8 * j.val + k.val) % 64 = 8 * (j.val % 8) + k.val := by omega
  simp only [byteView, BitVec.getLsbD_extractLsb', bitView, hlane, hbit, decide_eq_true k.isLt, Bool.true_and]

/-- Settles O10: the command XORs a lane value whose only byte that is not zero is `imm8`, at byte `j`. -/
theorem xrbChangesOneByte : Obligations.XrbChangesOneByte := by
  intro s j imm hd
  refine ⟨.xrl (laneBitsOf (laneOfByte j)) (byteInLane j imm), _, by simp [expandPseudo, j.isLt, imm.isLt],
    exec_xrl_of_defined (laneBitsOf_toNat _) hd _, fun k => ?_⟩
  rw [State.respond_lanes, State.setLane_lanes, byteView_set]
  by_cases hl : laneOfByte k = laneOfByte j
  · rw [if_pos hl, BitVec.extractLsb'_xor, extract_byteInLane hl, State.lane, ← hl, ← byteView]
    by_cases hk : k = j <;> simp [hk]
  · rw [if_neg hl, if_neg fun hk => hl (congrArg laneOfByte hk)]

/-- Settles O25: a lane XORed twice with the same value is itself, and a lane or flag written twice is written once. -/
theorem repeatedWrites : Obligations.RepeatedWrites := by
  refine ⟨fun s i lane d hl hd => ?_, fun s lane d hl => ?_, fun s => ⟨_, rfl, rfl⟩⟩
  · refine ⟨_, _, exec_xrl_of_defined hl hd d, exec_xrl_of_defined hl (by simpa using hd) d, ?_⟩
    simp [State.lane]
  · refine ⟨_, exec_wrl_of_lt hl d s, ?_⟩
    rw [exec_wrl_of_lt hl]
    simp [State.setLane, State.define, State.respond]

/-! ### The three steps of a command -/

theorem hostKeepsDuty_of_not_held (hh : s.held = none) : s.hostKeepsDuty = true := by rw [State.hostKeepsDuty, hh]

theorem pins_of_inputs {q : PortIn} {p : List PortIn} (hp : s.inputs = q :: p) : s.pins = q := by
  rw [State.pins, hp]; rfl

/-- When an edge has passed at which a command was accepted or none was offered, only the plan has moved. -/
theorem passEdge_of_nothing_due {q : PortIn} {p : List PortIn} (hh : s.held = none) (hp : s.inputs = q :: p)
    (hq : s.cmdReady = true ∨ q.cmd = none) : s.passEdge = { s with inputs := p } := by
  have hpins := pins_of_inputs hp
  rw [State.passEdge, hpins, hp, hh]
  obtain hq | hq := hq <;> simp [hq]

theorem step_offer {b : Beat} {p : List PortIn} (hc : s.ctl = .idle) (hh : s.held = none)
    (hp : s.inputs = { rst := false, cmd := some b, rspReady := false } :: p) :
    step s = .next { s with ctl := .exec b, inputs := p } := by
  have hpins := pins_of_inputs hp
  have hready : s.cmdReady = true := by simp [State.cmdReady, hc, hpins]
  rw [step_of_idle (by rw [hpins]) (hostKeepsDuty_of_not_held hh) hc, accept_of_cmd (b := b) (by rw [hpins]),
    passEdge_of_nothing_due hh hp (.inl hready)]

theorem step_complete {b : Beat} {p : List PortIn} (hc : s.ctl = .exec b) (hh : s.held = none)
    (hp : s.inputs = PortIn.rest :: p) : step s = execBeat b { s with inputs := p } := by
  have hpins := pins_of_inputs hp
  rw [step_of_exec (by rw [hpins]; rfl) (hostKeepsDuty_of_not_held hh) hc, passEdge_of_nothing_due hh hp (.inr rfl)]

theorem step_take {r : Response} {p : List PortIn} (hc : s.ctl = .resp r) (hh : s.held = none)
    (hp : s.inputs = { rst := false, cmd := none, rspReady := true } :: p) :
    step s = .next { s with ctl := .idle, delivered := s.delivered ++ [r], inputs := p } := by
  have hpins := pins_of_inputs hp
  rw [step_of_resp (by rw [hpins]) (hostKeepsDuty_of_not_held hh) hc, offerResponse_of_ready (by rw [hpins]),
    passEdge_of_nothing_due hh hp (.inr rfl)]

theorem runSteps_of_step (h : step s = .next t) (n : Nat) : runSteps (n + 1) s = runSteps n t := by rw [runSteps, h]

/-- One command through the port takes three steps, the offer accepted, the operation completed and the response taken;
together they are the atomic step with its response taken. -/
theorem runSteps_beatPlan {b : Beat} {r : Response} {p : List PortIn} (hc : s.ctl = .idle) (hh : s.held = none)
    (hp : s.inputs = beatPlan b ++ p) (h : execBeat b { s with inputs := [] } = .next t) (hr : t.ctl = .resp r)
    (n : Nat) : runSteps (n + 3) s = runSteps n { t.takeResponse with inputs := p } := by
  obtain ⟨-, hheld, -⟩ := execBeat_keeps_host h
  have complete : step { s with ctl := .exec b, inputs := (beatPlan b).drop 1 ++ p } =
      .next { t with inputs := (beatPlan b).drop 2 ++ p } :=
    (step_complete (s := { s with ctl := .exec b, inputs := _ }) rfl hh rfl).trans (execBeat_of_port h (.exec b) _)
  have take : step { t with inputs := (beatPlan b).drop 2 ++ p } = .next { t.takeResponse with inputs := p } := by
    rw [takeResponse_of_resp hr]
    exact step_take (s := { t with inputs := _ }) hr (hheld.trans hh) rfl
  calc runSteps (n + 3) s
    _ = runSteps (n + 2) { s with ctl := .exec b, inputs := (beatPlan b).drop 1 ++ p } :=
        runSteps_of_step (step_offer hc hh hp) _
    _ = runSteps (n + 1) { t with inputs := (beatPlan b).drop 2 ++ p } := runSteps_of_step complete _
    _ = runSteps n { t.takeResponse with inputs := p } := runSteps_of_step take _

/-- Settles O55, by induction on the list of commands. -/
theorem sequencesRunAtomicallyInOrder : Obligations.SequencesRunAtomicallyInOrder := by
  intro bs
  induction bs with
  | nil => intro s _ _ hp; rw [← show s.inputs = [] from hp]; rfl
  | cons b bs ih =>
    intro s hc hh hp
    obtain ⟨t, r, ht, hr⟩ := execBeat_next b { s with inputs := [] }
    obtain ⟨hin, hheld, -⟩ := execBeat_keeps_host ht
    have htake := takeResponse_of_resp hr
    calc runSteps (3 * (b :: bs).length) s
      _ = runSteps (3 * bs.length) { t.takeResponse with inputs := hostPlan bs } :=
          runSteps_beatPlan hc hh hp ht hr _
      _ = runBeats bs { t.takeResponse with inputs := [] } :=
          ih _ (by rw [htake]) (by rw [htake]; exact hheld.trans hh) rfl
      _ = runBeats bs t.takeResponse := by rw [htake, ← show t.inputs = [] from hin]
      _ = runBeats (b :: bs) { s with inputs := [] } := by rw [runBeats, ht]

end Sys2Proof.Machine
end

section
/-! SUPPORT. Decoding and encoding each determined by the other: the word of a command, the checks a word passes or fails,
and what the data operand decides (30_encoding.md R60 to R67). -/

namespace Sys2Proof

/-! ### The word of a command -/

theorem encode_fields (i : Instr) : Laws.EncodedFields.Statement i := Laws.EncodedFields.fields_of_append _ _ _

/-- `CW = OP<<12 | LANE`, in arithmetic (30_encoding.md R70). -/
theorem encode_cw_toNat (i : Instr) : (encode i).cw.toNat = 2 ^ 12 * i.opcode.toNat + i.laneBits.toNat := by
  obtain ⟨hop, hrsv, hlane⟩ := encode_fields i
  have hop' := congrArg BitVec.toNat hop
  have hrsv' := congrArg BitVec.toNat hrsv
  have hlane' := congrArg BitVec.toNat hlane
  rw [opField_toNat] at hop'
  rw [rsvField_toNat, BitVec.toNat_ofNat] at hrsv'
  rw [laneField_toNat] at hlane'
  omega

theorem encode_cw (i : Instr) : (encode i).cw = BitVec.ofNat 16 (2 ^ 12 * i.opcode.toNat + i.laneBits.toNat) := by
  rw [← encode_cw_toNat, BitVec.ofNat_toNat, BitVec.setWidth_eq]

theorem encode_cw_of_lane {i : Instr} {k : Nat} (h : i.laneBits.toNat = k) :
    (encode i).cw = BitVec.ofNat 16 (2 ^ 12 * i.opcode.toNat + k) := h ▸ encode_cw i

theorem toNat_ofNat_lane {k : Nat} (h : k < 25) : (BitVec.ofNat 5 k).toNat = k :=
  Nat.mod_eq_of_lt (h.trans (by decide))

theorem laneLegal_ofNat {k : Nat} (h : k < 25) : laneLegal (BitVec.ofNat 5 k) = true :=
  decide_eq_true ((toNat_ofNat_lane h).symm ▸ h)

/-! ### The command an operation code names -/

/-- A command's own operation code and lane name it again, with its data operand where it uses one. -/
theorem commandOf_opcode (i : Instr) {d : Word} (hd : i.usesData = true → i.data = d) :
    commandOf i.opcode i.laneBits d = some i := by
  cases i with
  | nop => rfl
  | wrl lane e => rw [← hd rfl]; rfl
  | xrl lane e => rw [← hd rfl]; rfl
  | rdl lane => rfl
  | clr => rfl
  | perm => rfl
  | rds => rfl

theorem commandOf_eq_none_iff {op : BitVec 4} {lane : BitVec 5} {d : Word} :
    commandOf op lane d = none ↔ 7 ≤ op.toNat := by
  unfold commandOf
  split
  case h_8 =>
    simp only [imp_false] at *
    exact ⟨fun _ => by omega, fun _ => trivial⟩
  all_goals simp [*]

theorem commandOf_eq_some {op : BitVec 4} (h : op.toNat < 7) (lane : BitVec 5) (d : Word) :
    ∃ i, commandOf op lane d = some i :=
  Option.ne_none_iff_exists'.1 fun hn => by have := commandOf_eq_none_iff.1 hn; omega

/-- The command with `d` as its data operand, if it has one. -/
def Instr.withData (d : Word) : Instr → Instr
  | .nop => .nop
  | .wrl lane _ => .wrl lane d
  | .xrl lane _ => .xrl lane d
  | .rdl lane => .rdl lane
  | .clr => .clr
  | .perm => .perm
  | .rds => .rds

/-- The answer of the decode function with `d` as the data operand of its command, if it has one. -/
def Decoded.withData (d : Word) : Decoded → Decoded
  | .cmd i => .cmd (i.withData d)
  | .illegal c => .illegal c

theorem usesLane_withData (d : Word) (i : Instr) : (i.withData d).usesLane = i.usesLane := by cases i <;> rfl

theorem withData_of_not_usesData {i : Instr} (h : i.usesData = false) (d : Word) : i.withData d = i := by
  cases i with
  | wrl lane e => cases h
  | xrl lane e => cases h
  | _ => rfl

theorem commandOf_withData (op : BitVec 4) (lane : BitVec 5) (d e : Word) :
    commandOf op lane e = (commandOf op lane d).map (Instr.withData e) := by
  unfold commandOf
  split <;> rfl

/-- The data operand of a beat goes into the command unchanged and decides nothing else (30_encoding.md R63). -/
theorem decode_withData (cw : BitVec 16) (d e : Word) : decode cw e = (decode cw d).withData e := by
  rw [decode, decode, commandOf_withData _ _ d e]
  cases commandOf (opField cw) (laneField cw) d with
  | none => rfl
  | some i =>
    simp only [Option.map_some, usesLane_withData]
    split_ifs <;> rfl

/-- The commands without a lane are those of the operation codes 0, 4, 5 and 6. -/
theorem usesLane_eq_false_iff (i : Instr) : i.usesLane = false ↔
    i.opcode.toNat = 0 ∨ i.opcode.toNat = 4 ∨ i.opcode.toNat = 5 ∨ i.opcode.toNat = 6 := by
  cases i <;> simp [Instr.usesLane, Instr.opcode]

theorem laneBits_of_not_usesLane {i : Instr} (h : i.usesLane = false) : i.laneBits = 0#5 := by
  cases i with
  | wrl lane d => cases h
  | xrl lane d => cases h
  | rdl lane => cases h
  | _ => rfl

/-! ### What the checks of R67 answer, one by one -/

section Checks
variable {cw : BitVec 16} {d : Word} {i : Instr}

theorem decode_of_reserved_op (h : 7 ≤ (opField cw).toNat) : decode cw d = .illegal .badOp := by
  rw [decode, commandOf_eq_none_iff.2 h]

variable (hi : commandOf (opField cw) (laneField cw) d = some i)
include hi

theorem decode_of_rsv (h : rsvField cw ≠ 0#7) : decode cw d = .illegal .badField := by
  simp only [decode, hi, if_pos h]

theorem decode_of_unused_lane (hr : rsvField cw = 0#7) (hu : i.usesLane = false) (h : laneField cw ≠ 0#5) :
    decode cw d = .illegal .badField := by
  simp [decode, hi, hr, hu, h]

theorem decode_of_reserved_lane (hr : rsvField cw = 0#7) (hu : i.usesLane = true) (h : 25 ≤ (laneField cw).toNat) :
    decode cw d = .illegal .badLane := by
  simp [decode, hi, hr, hu, h]

/-- A word that passes every check decodes to its command. -/
theorem decode_of_checks (hr : rsvField cw = 0#7) (hl : i.usesLane = false → laneField cw = 0#5)
    (hlt : i.usesLane = true → (laneField cw).toNat < 25) : decode cw d = .cmd i := by
  simp only [decode, hi]
  cases hu : i.usesLane with
  | false => simp [hr, hl hu]
  | true => simp [hr, hlt hu]

end Checks

/-- A word decodes to a command exactly when it is the word of that command, a well-formed one, whose data operand, where
it uses one, is the beat's. -/
theorem decode_eq_cmd_iff {cw : BitVec 16} {d : Word} {i : Instr} : decode cw d = .cmd i ↔
    i.wellFormed = true ∧ (encode i).cw = cw ∧ (i.usesData = true → i.data = d) := by
  constructor
  · intro h
    obtain ⟨hi, hrsv, hunused, -⟩ := decode_cmd h
    obtain ⟨hop, hlane, hdata⟩ := commandOf_fields hi
    have hlane : i.laneBits = laneField cw := by
      cases hu : i.usesLane with
      | false => rw [laneBits_of_not_usesLane hu, hunused hu]
      | true => rw [hlane, if_pos hu]
    refine ⟨wellFormed_of_decode h, ?_, fun hu => by rw [hdata, if_pos hu]⟩
    rw [encode, hop, hlane, ← hrsv, fields_append]
  · rintro ⟨hw, rfl, hd⟩
    obtain ⟨hop, hrsv, hlane⟩ := encode_fields i
    refine decode_of_checks ?_ hrsv ?_ ?_
    · rw [hop, hlane, commandOf_opcode i hd]
    · rw [hlane]; exact laneBits_of_not_usesLane
    · rw [hlane]; exact i.wellFormed_iff.1 hw

/-- Whatever the data operand, a word decodes to a command exactly when it is some well-formed command's word. -/
theorem exists_decode_iff {cw : BitVec 16} {d : Word} :
    (∃ i, decode cw d = .cmd i) ↔ ∃ i : Instr, i.wellFormed = true ∧ (encode i).cw = cw := by
  constructor
  · rintro ⟨i, h⟩
    obtain ⟨hw, hcw, -⟩ := decode_eq_cmd_iff.1 h
    exact ⟨i, hw, hcw⟩
  · rintro ⟨i, hw, hcw⟩
    have h : decode cw i.data = .cmd i := decode_eq_cmd_iff.2 ⟨hw, hcw, fun _ => rfl⟩
    exact ⟨i.withData d, by rw [decode_withData cw i.data d, h]; rfl⟩

/-- The decoder reads the encoder's beat of a well-formed command back (30_encoding.md R60, R61). -/
theorem decode_encode {i : Instr} (hw : i.wellFormed = true) : decode (encode i).cw (encode i).d = .cmd i :=
  decode_eq_cmd_iff.2 ⟨hw, rfl, fun _ => rfl⟩

/-! ### The table of the words -/

/-- The words of the well-formed commands are those the table lists. -/
theorem mem_legalWords_iff {cw : BitVec 16} :
    cw ∈ legalWords ↔ ∃ i : Instr, i.wellFormed = true ∧ (encode i).cw = cw := by
  simp only [legalWords, List.mem_append, List.mem_map, List.mem_range, List.mem_cons, List.not_mem_nil, or_false]
  constructor
  · rintro ((((rfl | ⟨k, hk, rfl⟩) | ⟨k, hk, rfl⟩) | ⟨k, hk, rfl⟩) | rfl | rfl | rfl)
    · exact ⟨.nop, rfl, rfl⟩
    · exact ⟨.wrl (.ofNat 5 k) 0, laneLegal_ofNat hk, encode_cw_of_lane (toNat_ofNat_lane hk)⟩
    · exact ⟨.xrl (.ofNat 5 k) 0, laneLegal_ofNat hk, encode_cw_of_lane (toNat_ofNat_lane hk)⟩
    · exact ⟨.rdl (.ofNat 5 k), laneLegal_ofNat hk, encode_cw_of_lane (toNat_ofNat_lane hk)⟩
    · exact ⟨.clr, rfl, rfl⟩
    · exact ⟨.perm, rfl, rfl⟩
    · exact ⟨.rds, rfl, rfl⟩
  · rintro ⟨i, hw, rfl⟩
    cases i with
    | nop => exact .inl (.inl (.inl (.inl rfl)))
    | wrl lane d => exact .inl (.inl (.inl (.inr ⟨lane.toNat, lt_of_laneLegal hw, (encode_cw (.wrl lane d)).symm⟩)))
    | xrl lane d => exact .inl (.inl (.inr ⟨lane.toNat, lt_of_laneLegal hw, (encode_cw (.xrl lane d)).symm⟩))
    | rdl lane => exact .inl (.inr ⟨lane.toNat, lt_of_laneLegal hw, (encode_cw (.rdl lane)).symm⟩)
    | clr => exact .inr (.inl rfl)
    | perm => exact .inr (.inr (.inl rfl))
    | rds => exact .inr (.inr (.inr rfl))

/-- A row of the table covers a command's word exactly when it is the command's row. -/
theorem covers_encode_iff (i : Instr) : ∀ row ∈ opcodeTable,
    row.covers (encode i).cw = true ↔ row.mnemonic = i.mnemonic := by
  cases i with
  | nop => decide
  | wrl lane d =>
    have h : ∀ lane, ∀ row ∈ opcodeTable, row.covers (encode (.wrl lane 0)).cw = true ↔ row.mnemonic = "WRL" := by
      decide
    exact h lane
  | xrl lane d =>
    have h : ∀ lane, ∀ row ∈ opcodeTable, row.covers (encode (.xrl lane 0)).cw = true ↔ row.mnemonic = "XRL" := by
      decide
    exact h lane
  | rdl lane => revert lane; decide
  | clr => decide
  | perm => decide
  | rds => decide

end Sys2Proof
end

section
/-! PROOFS. The decoder and the encoder, the table of the words, and unused data (30_encoding.md R60 to R69). -/

namespace Sys2Proof

/-- Settles O2: an encoded command passes every check of the decoder. -/
theorem decodeEncodeRoundTrip : Obligations.DecodeEncodeRoundTrip := fun _ hw => decode_encode hw

/-- Settles O3: a word is put together from its fields, and they are its command's. -/
theorem encodeDecodeRoundTrip : Obligations.EncodeDecodeRoundTrip := by
  intro cw d i h
  obtain ⟨hw, rfl, hd⟩ := decode_eq_cmd_iff.1 h
  obtain ⟨hop, -, -⟩ := encode_fields i
  exact ⟨hw, rfl, hd, hop.symm⟩

/-- Settles O4, a check a clause; below a reserved operation code a command is named, and its code says whether it uses
a lane. -/
theorem decodeChecksInOrder : Obligations.DecodeChecksInOrder := by
  intro cw d op rsv lane plain
  have hrsv : rsvField cw = 0#7 ↔ rsv = 0 := by rw [← BitVec.toNat_inj, rsvField_toNat]; rfl
  have hlane : laneField cw = 0#5 ↔ lane = 0 := by rw [← BitVec.toNat_inj, laneField_toNat]; rfl
  have hcmd (h : op < 7) : ∃ i, commandOf (opField cw) (laneField cw) d = some i ∧ i.opcode.toNat = op ∧
      i.laneBits = (if i.usesLane then laneField cw else 0) ∧ (i.usesLane = false ↔ plain) := by
    obtain ⟨i, hi⟩ := commandOf_eq_some (by rwa [opField_toNat]) (laneField cw) d
    obtain ⟨hop, hl, -⟩ := commandOf_fields hi
    have hop : i.opcode.toNat = op := by rw [hop, opField_toNat]
    exact ⟨i, hi, hop, hl, by rw [usesLane_eq_false_iff, hop]⟩
  refine ⟨fun h => ?_, fun h hr => ?_, fun h hr hp hl => ?_, fun h hr hp hl => ?_, fun h hr hp hl => ?_,
    fun h hr hp hl => ?_⟩
  · exact decode_of_reserved_op (by rwa [opField_toNat])
  all_goals obtain ⟨i, hi, hop, hbits, hplain⟩ := hcmd h
  · exact decode_of_rsv hi (mt hrsv.1 hr)
  · exact decode_of_unused_lane hi (hrsv.2 hr) (hplain.2 hp) (mt hlane.1 hl)
  · have hu : i.usesLane = true := by simpa using mt hplain.1 hp
    exact decode_of_reserved_lane hi (hrsv.2 hr) hu (by rwa [laneField_toNat])
  · have hu := hplain.2 hp
    exact ⟨i, decode_of_checks hi (hrsv.2 hr) (fun _ => hlane.2 hl) (by simp [hu]), hop, hu⟩
  · have hu : i.usesLane = true := by simpa using mt hplain.1 hp
    refine ⟨i, decode_of_checks hi (hrsv.2 hr) (by simp [hu]) fun _ => by rwa [laneField_toNat], hop, hu, ?_⟩
    rw [hbits, if_pos hu, laneField_toNat]

/-- Settles O6: the data operand goes into the command, if it has a place for it, and decides nothing else. -/
theorem unusedDataIsIgnored : Obligations.UnusedDataIsIgnored := by
  refine ⟨fun cw d e i h hu => ?_, fun cw d e c h => ?_⟩
  · rw [decode_withData cw d e, h, Decoded.withData, withData_of_not_usesData hu]
  · rw [decode_withData cw d e, h, Decoded.withData]

/-- Settles O1: the words are those of the commands. -/
theorem specWordsDecode : Obligations.SpecWordsDecode := fun d =>
  have word {cw : BitVec 16} (i : Instr) (hw : i.wellFormed = true)
    (hcw : BitVec.ofNat 16 (2 ^ 12 * i.opcode.toNat + i.laneBits.toNat) = cw)
    (hd : i.usesData = true → i.data = d) : decode cw d = .cmd i :=
    decode_eq_cmd_iff.2 ⟨hw, (encode_cw i).trans hcw, hd⟩
  ⟨word .nop rfl rfl nofun, word (.wrl 7 d) rfl rfl fun _ => rfl, word (.xrl 0 d) rfl rfl fun _ => rfl,
    word (.rdl 24) rfl rfl nofun, word .clr rfl rfl nofun, word .perm rfl rfl nofun, word .rds rfl rfl nofun⟩

/-- Settles O5: the legal words are the words of the well-formed commands. -/
theorem legalWordsAreTheTables : Obligations.LegalWordsAreTheTables := by
  refine ⟨rfl, by decide, fun cw d => exists_decode_iff.trans mem_legalWords_iff.symm, fun cw d i h => ?_⟩
  obtain ⟨-, rfl, -⟩ := decode_eq_cmd_iff.1 h
  exact covers_encode_iff i

end Sys2Proof
end

section
/-! SUPPORT. What the assembler answers to a lane, an immediate and a line, accepted or refused, and that its commands are
well formed (30_encoding.md R70, R71). -/

namespace Sys2Proof.Machine

/-! ### Operands -/

theorem resolveLane_index {i : Nat} (h : i < 25) : resolveLane (.index i) = .ok (BitVec.ofNat 5 i) := if_pos h

theorem resolveLane_index_of_le {i : Nat} (h : 25 ≤ i) : resolveLane (.index i) = .error .laneOutOfRange :=
  if_neg (Nat.not_lt.2 h)

theorem resolveLane_coord {x y : Nat} (hx : x < 5) (hy : y < 5) :
    resolveLane (.coord x y) = .ok (BitVec.ofNat 5 (x + 5 * y)) := if_pos ⟨hx, hy⟩

theorem resolveLane_coord_of_le {x y : Nat} (h : 5 ≤ x ∨ 5 ≤ y) :
    resolveLane (.coord x y) = .error .laneOutOfRange :=
  if_neg fun ⟨hx, hy⟩ => h.elim (Nat.not_le.2 hx) (Nat.not_le.2 hy)

theorem resolveImm_of_lt {n : Nat} (h : n < 2 ^ 64) : resolveImm n = .ok (BitVec.ofNat 64 n) := if_pos h

theorem resolveImm_of_le {n : Nat} (h : 2 ^ 64 ≤ n) : resolveImm n = .error .immediateTooWide :=
  if_neg (Nat.not_lt.2 h)

/-! ### Lines -/

/-- `CW = OP<<12 | LANE` and `D` (30_encoding.md R70). -/
theorem encode_eq (i : Instr) :
    encode i = { cw := BitVec.ofNat 16 (i.opcode.toNat <<< 12 ||| i.laneBits.toNat), d := i.data } := by
  have hlane : i.laneBits.toNat < 2 ^ 12 := i.laneBits.isLt.trans (by decide)
  rw [Nat.shiftLeft_eq, Nat.mul_comm, ← Nat.two_pow_add_eq_or_of_lt hlane, ← encode_cw]
  rfl

/-- A step of the assembler succeeds where its first part does and the rest then does. -/
theorem exists_of_bind_eq_ok {α β : Type} {x : Except AsmError α} {f : α → Except AsmError β} {r : β} (h : x >>= f = .ok r) :
    ∃ a, x = .ok a ∧ f a = .ok r := by
  cases x with
  | error e => cases h
  | ok a => exact ⟨a, rfl, h⟩

/-- The expansion of a pseudo-instruction names lanes only. -/
theorem expandPseudo_wellFormed {p : Pseudo} {is : List Instr} (h : expandPseudo p = .ok is) :
    ∀ i ∈ is, i.wellFormed = true := by
  cases p with
  | xrb j imm =>
    simp only [expandPseudo] at h
    split_ifs at h
    cases h
    exact List.forall_mem_singleton.2 (laneLegal_laneBitsOf _)
  | ldall v =>
    cases h
    exact List.forall_mem_map.2 fun i _ => laneLegal_laneBitsOf i
  | rdall =>
    cases h
    exact List.forall_mem_map.2 fun i _ => laneLegal_laneBitsOf i
  | xrblk v =>
    simp only [expandPseudo] at h
    split_ifs at h with hv
    cases h
    intro i hi
    obtain ⟨k, hk, rfl⟩ := List.mem_mapIdx.1 hi
    exact laneLegal_ofNat (hk.trans_le hv)

/-- The commands of a line name lanes only: its operand checks, or the expansion, see to it. -/
theorem lineCommands_wellFormed {line : AsmLine} {is : List Instr} (h : lineCommands line = .ok is) :
    ∀ i ∈ is, i.wellFormed = true := by
  cases line with
  | wrl l n =>
    obtain ⟨lane, hl, h⟩ := exists_of_bind_eq_ok h
    obtain ⟨w, -, h⟩ := exists_of_bind_eq_ok h
    cases h
    exact List.forall_mem_singleton.2 (resolveLane_legal hl)
  | xrl l n =>
    obtain ⟨lane, hl, h⟩ := exists_of_bind_eq_ok h
    obtain ⟨w, -, h⟩ := exists_of_bind_eq_ok h
    cases h
    exact List.forall_mem_singleton.2 (resolveLane_legal hl)
  | rdl l =>
    obtain ⟨lane, hl, h⟩ := exists_of_bind_eq_ok h
    cases h
    exact List.forall_mem_singleton.2 (resolveLane_legal hl)
  | nop => cases h; exact List.forall_mem_singleton.2 rfl
  | clr => cases h; exact List.forall_mem_singleton.2 rfl
  | perm => cases h; exact List.forall_mem_singleton.2 rfl
  | rds => cases h; exact List.forall_mem_singleton.2 rfl
  | raw b => cases h; exact List.forall_mem_nil _
  | pseudo p => exact expandPseudo_wellFormed h

theorem assemble_of_commands {line : AsmLine} {is : List Instr} (hline : ∀ b, line ≠ .raw b)
    (h : lineCommands line = .ok is) : assemble line = .ok (is.map encode) := by
  rw [assemble_eq hline, h]; rfl

theorem assemble_of_error {line : AsmLine} {e : AsmError} (hline : ∀ b, line ≠ .raw b)
    (h : lineCommands line = .error e) : assemble line = .error e := by
  rw [assemble_eq hline, h]; rfl

/-- The beats of a line other than raw data are those of well-formed commands. -/
theorem exists_of_mem_assemble {line : AsmLine} {bs : List Beat} {b : Beat} (h : assemble line = .ok bs)
    (hline : ∀ b, line ≠ .raw b) (hb : b ∈ bs) : ∃ i : Instr, i.wellFormed = true ∧ encode i = b := by
  cases hc : lineCommands line with
  | error e => rw [assemble_of_error hline hc] at h; cases h
  | ok is =>
    rw [assemble_of_commands hline hc] at h
    cases h
    obtain ⟨i, hi, rfl⟩ := List.mem_map.1 hb
    exact ⟨i, lineCommands_wellFormed hc i hi, rfl⟩

section Lines
variable {l : LaneRef} {n : Nat} {lane : BitVec 5} {e : AsmError}

theorem assemble_of_operands {w : Word} (hl : resolveLane l = .ok lane) (hn : resolveImm n = .ok w) :
    assemble (.wrl l n) = .ok [encode (.wrl lane w)] ∧ assemble (.xrl l n) = .ok [encode (.xrl lane w)] ∧
      assemble (.rdl l) = .ok [encode (.rdl lane)] :=
  ⟨assemble_of_commands (is := [_]) nofun (by rw [lineCommands, hl, hn]; rfl),
    assemble_of_commands (is := [_]) nofun (by rw [lineCommands, hl, hn]; rfl),
    assemble_of_commands (is := [_]) nofun (by rw [lineCommands, hl]; rfl)⟩

theorem assemble_of_lane_error (hl : resolveLane l = .error e) :
    assemble (.wrl l n) = .error e ∧ assemble (.xrl l n) = .error e ∧ assemble (.rdl l) = .error e :=
  ⟨assemble_of_error nofun (by rw [lineCommands, hl]; rfl), assemble_of_error nofun (by rw [lineCommands, hl]; rfl),
    assemble_of_error nofun (by rw [lineCommands, hl]; rfl)⟩

theorem assemble_of_imm_error (hl : resolveLane l = .ok lane) (hn : resolveImm n = .error e) :
    assemble (.wrl l n) = .error e ∧ assemble (.xrl l n) = .error e :=
  ⟨assemble_of_error nofun (by rw [lineCommands, hl, hn]; rfl),
    assemble_of_error nofun (by rw [lineCommands, hl, hn]; rfl)⟩

end Lines

/-! ### Programs -/

theorem assembleFrom_cons_ok {l : AsmLine} {bs : List Beat} (h : assemble l = .ok bs) (n : Nat) (ls : List AsmLine) :
    assembleFrom n (l :: ls) = (assembleFrom (n + 1) ls).map (bs ++ ·) := by rw [assembleFrom, h]

theorem assembleFrom_cons_error {l : AsmLine} {e : AsmError} (h : assemble l = .error e) (n : Nat) (ls : List AsmLine) :
    assembleFrom n (l :: ls) = .error (n, e) := by rw [assembleFrom, h]

/-- A program of accepted lines is assembled to their beats in order. -/
theorem assembleFrom_ok {lines : List AsmLine} {words : List (List Beat)}
    (h : List.Forall₂ (fun l bs => assemble l = .ok bs) lines words) (first : Nat) :
    assembleFrom first lines = .ok words.flatten := by
  induction h generalizing first with
  | nil => rfl
  | cons hl _ ih => rw [assembleFrom_cons_ok hl, ih]; rfl

/-- A program is refused at its first refused line, whose number counts the accepted lines before it. -/
theorem assembleFrom_error {line : AsmLine} {e : AsmError} (h : assemble line = .error e) {before : List AsmLine}
    (hb : ∀ l ∈ before, ∃ bs, assemble l = .ok bs) (after : List AsmLine) (first : Nat) :
    assembleFrom first (before ++ line :: after) = .error (first + before.length, e) := by
  induction before generalizing first with
  | nil => exact assembleFrom_cons_error h first after
  | cons l ls ih =>
    obtain ⟨⟨bs, hl⟩, hls⟩ := List.forall_mem_cons.1 hb
    rw [List.cons_append, assembleFrom_cons_ok hl, ih hls, List.length_cons, Nat.add_right_comm]
    rfl

end Sys2Proof.Machine
end

section
/-! PROOFS. The assembler (30_encoding.md R70, R71). -/

namespace Sys2Proof.Machine

/-- Settles O7: what the assembler accepts is well formed, and each refusal is that of the first check that fails. -/
theorem assembledBeatsAreLegal : Obligations.AssembledBeatsAreLegal := by
  refine ⟨fun line bs h hline b hb => ?_, fun i hi => ⟨_, resolveLane_index hi, toNat_ofNat_lane hi⟩,
    fun x y hx hy => ⟨_, resolveLane_coord hx hy, toNat_ofNat_lane (by omega)⟩,
    fun n hn => ⟨_, resolveImm_of_lt hn, Nat.mod_eq_of_lt hn⟩, fun i => resolveLane_index_of_le,
    fun x y => resolveLane_coord_of_le, fun n => resolveImm_of_le,
    fun l n e => assemble_of_lane_error, fun l n lane e => assemble_of_imm_error,
    fun j n hj => assemble_of_error nofun (dif_neg (Nat.not_lt.2 hj)),
    fun j n hj hn => assemble_of_error nofun ((dif_pos hj).trans (if_neg (Nat.not_lt.2 hn))),
    fun v hv => assemble_of_error nofun (if_neg (Nat.not_le.2 hv)),
    fun before after line first e hb h => assembleFrom_error h hb after first⟩
  obtain ⟨i, hw, rfl⟩ := exists_of_mem_assemble h hline hb
  exact ⟨i, decode_encode hw⟩

/-- Settles O59: an accepted line has the words of its commands, and a lane index adds to its operation code. -/
theorem legalLinesAssembleToTheirWords : Obligations.LegalLinesAssembleToTheirWords := by
  refine ⟨fun l i n hi hn hl => ?_, rfl, rfl, rfl, rfl, fun b => rfl,
    fun p is h => assemble_of_commands nofun h, fun first lines words h => assembleFrom_ok h first⟩
  have hl : resolveLane l = .ok (BitVec.ofNat 5 i) := by
    obtain rfl | ⟨x, y, hx, hy, rfl, rfl⟩ := hl
    · exact resolveLane_index hi
    · exact resolveLane_coord hx hy
  have h := assemble_of_operands hl (resolveImm_of_lt hn)
  simp only [encode_eq, Instr.laneBits, toNat_ofNat_lane hi] at h
  exact h

end Sys2Proof.Machine
end

section
/-! SUPPORT. A sweep: a run of commands each of which rewrites its own lane and answers from it, one command a lane.  LDALL,
RDALL and XRBLK are sweeps (30_encoding.md R71). -/

namespace Sys2Proof.Machine

variable {s : State} {i : LaneIdx} {f g : LaneIdx → Word → Word} {cmd : LaneIdx → Instr} {l : List LaneIdx}

/-! ### A command of a sweep -/

/-- Lane `i`, holding `a`, becomes defined and holds `f i a`; the answer is `g i a`. -/
def State.rewriteLane (s : State) (f g : LaneIdx → Word → Word) (i : LaneIdx) : State :=
  ((s.setLane i (f i (s.lane i))).define i).respond (g i (s.lane i)) 0

theorem define_of_defined (h : s.isDefined i = true) : s.define i = s := by
  have hset : s.defined.set i true = s.defined := by
    rw [← show s.defined[i] = true from h]; exact Vector.set_getElem_self _
  rw [State.define, hset]

theorem setLane_lane (s : State) (i : LaneIdx) : s.setLane i (s.lane i) = s := by
  have hset : s.lanes.set i (s.lane i) = s.lanes := Vector.set_getElem_self _
  rw [State.setLane, hset]

theorem onLane_laneBitsOf (i : LaneIdx) (s : State) (h : LaneIdx → State) :
    onLane (laneBitsOf i) s h = .next (h i) := by rw [onLane, laneIndex_laneBitsOf]

theorem exec_wrl_eq_rewriteLane (d : LaneIdx → Word) (s : State) (i : LaneIdx) :
    exec (.wrl (laneBitsOf i) (d i)) s = .next (s.rewriteLane (fun j _ => d j) (fun _ _ => 0) i) :=
  onLane_laneBitsOf i s _

theorem exec_xrl_eq_rewriteLane (d : LaneIdx → Word) (h : s.isDefined i = true) :
    exec (.xrl (laneBitsOf i) (d i)) s = .next (s.rewriteLane (fun j a => a ^^^ d j) (fun _ _ => 0) i) := by
  rw [exec_xrl_of_defined (laneBitsOf_toNat i) h, State.rewriteLane, define_of_defined (by rwa [isDefined_setLane])]

theorem exec_rdl_eq_rewriteLane (h : s.isDefined i = true) :
    exec (.rdl (laneBitsOf i)) s = .next (s.rewriteLane (fun _ a => a) (fun _ a => a) i) := by
  rw [exec, execRdl, onLane_laneBitsOf, touch_of_defined h, State.rewriteLane, setLane_lane, define_of_defined h]

@[simp] theorem lane_rewriteLane (s : State) (f g : LaneIdx → Word → Word) (i j : LaneIdx) :
    (s.rewriteLane f g i).takeResponse.lane j = if j = i then f i (s.lane i) else s.lane j := lane_setLane s i j _

@[simp] theorem isDefined_rewriteLane (s : State) (f g : LaneIdx → Word → Word) (i j : LaneIdx) :
    (s.rewriteLane f g i).takeResponse.isDefined j = (s.isDefined j || j == i) := isDefined_define s i j

theorem lanes_toList (s : State) : s.lanes.toList = (List.finRange 25).map s.lane :=
  List.ext_getElem (by simp) fun k _ _ => by simp [State.lane]

/-! ### The whole sweep -/

/-- The state after a sweep over the lanes `l`, every response taken. -/
def State.swept (s : State) (f g : LaneIdx → Word → Word) (l : List LaneIdx) : State :=
  { s with
    lanes := tabulate fun j => if j ∈ l then f j (s.lane j) else s.lane j
    defined := tabulate fun j => s.isDefined j || decide (j ∈ l)
    ctl := .idle
    delivered := s.delivered ++ l.map fun j => { data := g j (s.lane j), err := 0 } }

theorem lane_swept (j : LaneIdx) : (s.swept f g l).lane j = if j ∈ l then f j (s.lane j) else s.lane j :=
  tabulate_get _ j

theorem isDefined_swept (j : LaneIdx) : (s.swept f g l).isDefined j = (s.isDefined j || decide (j ∈ l)) :=
  tabulate_get _ j

theorem swept_nil (h : s.ctl = .idle) : s.swept f g [] = s := by
  have hlanes : (s.swept f g []).lanes = s.lanes := vector_ext fun j => lane_swept j
  have hdefined : (s.swept f g []).defined = s.defined :=
    vector_ext fun j => (isDefined_swept j).trans (Bool.or_false _)
  calc s.swept f g []
    _ = { s with lanes := (s.swept f g []).lanes, defined := (s.swept f g []).defined, ctl := .idle,
                 delivered := s.delivered ++ [] } := rfl
    _ = s := by rw [hlanes, hdefined, List.append_nil, ← h]

/-- A sweep goes on after its first command as from the start, on lanes it has not come to yet. -/
theorem swept_rewriteLane (hi : i ∉ l) :
    (s.rewriteLane f g i).takeResponse.swept f g l = s.swept f g (i :: l) := by
  have hlanes : ((s.rewriteLane f g i).takeResponse.swept f g l).lanes = (s.swept f g (i :: l)).lanes :=
    vector_ext fun j => by
      refine (lane_swept j).trans (Eq.trans ?_ (lane_swept j).symm)
      obtain rfl | hj := eq_or_ne j i
      · simp [hi]
      · simp [hj]
  have hdefined : ((s.rewriteLane f g i).takeResponse.swept f g l).defined = (s.swept f g (i :: l)).defined :=
    vector_ext fun j => by
      refine (isDefined_swept j).trans (Eq.trans ?_ (isDefined_swept j).symm)
      simp [Bool.or_assoc, Bool.beq_eq_decide_eq]
  have hrest : l.map (fun j => (⟨g j ((s.rewriteLane f g i).takeResponse.lane j), 0⟩ : Response)) =
      l.map fun j => ⟨g j (s.lane j), 0⟩ :=
    List.map_congr_left fun j hj => by
      have hne : j ≠ i := fun e => hi (e ▸ hj)
      rw [lane_rewriteLane, if_neg hne]
  calc (s.rewriteLane f g i).takeResponse.swept f g l
    _ = { s with
          lanes := ((s.rewriteLane f g i).takeResponse.swept f g l).lanes
          defined := ((s.rewriteLane f g i).takeResponse.swept f g l).defined
          ctl := .idle
          delivered := s.delivered ++ [⟨g i (s.lane i), 0⟩] ++
            l.map fun j => ⟨g j ((s.rewriteLane f g i).takeResponse.lane j), 0⟩ } := rfl
    _ = s.swept f g (i :: l) := by rw [hlanes, hdefined, hrest, List.append_assoc]; rfl

/-- A sweep over defined lanes leaves every flag. -/
theorem swept_defined_of_defined (h : ∀ i ∈ l, s.isDefined i = true) : (s.swept f g l).defined = s.defined :=
  vector_ext fun j => (isDefined_swept j).trans (Bool.or_eq_left_iff_imp.2 fun hj => h j (of_decide_eq_true hj))

/-- What a sweep over defined lanes may change: the lanes, the controller and the responses. -/
theorem swept_of_defined (h : ∀ i ∈ l, s.isDefined i = true) : s.swept f g l =
    { s with lanes := (s.swept f g l).lanes, ctl := .idle, delivered := (s.swept f g l).delivered } := by
  rw [← swept_defined_of_defined (f := f) (g := g) h]; rfl

/-- From `s` on, each command of the list is well formed and rewrites its own lane, as long as that lane, if it was
defined in `s`, still is. -/
def State.Sweeps (s : State) (cmd : LaneIdx → Instr) (f g : LaneIdx → Word → Word) (l : List LaneIdx) : Prop :=
  ∀ i ∈ l, (cmd i).wellFormed = true ∧
    ∀ u : State, (s.isDefined i = true → u.isDefined i = true) → exec (cmd i) u = .next (u.rewriteLane f g i)

/-- A sweep completes, one lane after the other. -/
theorem runBeats_sweep (h : s.Sweeps cmd f g l) (hn : l.Nodup) (hidle : l = [] → s.ctl = .idle) :
    runBeats ((l.map cmd).map encode) s = .next (s.swept f g l) := by
  induction l generalizing s with
  | nil => rw [swept_nil (hidle rfl)]; rfl
  | cons i l ih =>
    obtain ⟨⟨hw, hexec⟩, hl⟩ := List.forall_mem_cons.1 h
    obtain ⟨hi, hn⟩ := List.nodup_cons.1 hn
    have hfirst : execBeat (encode (cmd i)) s = .next (s.rewriteLane f g i) :=
      (execBeat_of_cmd (decode_encode hw) s).trans (hexec s id)
    have hrest : (s.rewriteLane f g i).takeResponse.Sweeps cmd f g l := fun j hj => by
      obtain ⟨hwj, hj⟩ := hl j hj
      exact ⟨hwj, fun u hu => hj u fun hd => hu (by simp [hd])⟩
    rw [List.map_cons, List.map_cons, runBeats, hfirst, ← swept_rewriteLane hi]
    exact ih hrest hn fun _ => rfl

/-! ### The lanes of XRBLK -/

/-- The first `n` lanes, in order. -/
def firstLanes (n : Nat) (h : n ≤ 25) : List LaneIdx := (List.finRange n).map (Fin.castLE h)

theorem mem_firstLanes {n : Nat} {h : n ≤ 25} : i ∈ firstLanes n h ↔ i.val < n := by
  simp only [firstLanes, List.mem_map, List.mem_finRange, true_and]
  exact ⟨fun ⟨k, hk⟩ => hk ▸ k.isLt, fun hi => ⟨⟨i.val, hi⟩, rfl⟩⟩

theorem nodup_firstLanes (n : Nat) (h : n ≤ 25) : (firstLanes n h).Nodup :=
  (List.nodup_finRange n).map (Fin.castLE_injective h)

theorem length_firstLanes (n : Nat) (h : n ≤ 25) : (firstLanes n h).length = n := by simp [firstLanes]

/-- XRBLK XORs the first lanes in order. -/
theorem expandPseudo_xrblk {v : List Word} (h : v.length ≤ 25) :
    expandPseudo (.xrblk v) = .ok ((firstLanes v.length h).map fun i => .xrl (laneBitsOf i) (v.getD i.val 0)) := by
  rw [expandPseudo, if_pos h, List.mapIdx_eq_ofFn, List.ofFn_eq_map, firstLanes, List.map_map]
  refine congrArg Except.ok (List.map_congr_left fun k _ => ?_)
  rw [Function.comp_apply, Fin.val_castLE, List.getD_eq_getElem v 0 k.isLt]
  rfl

end Sys2Proof.Machine
end

section
/-! PROOFS. LDALL, RDALL and XRBLK (30_encoding.md R71), and the response of every command (R65, R66). -/

namespace Sys2Proof.Machine

/-- Settles O11: LDALL is a sweep of WRL over all lanes. -/
theorem ldallLoadsTheState : Obligations.LdallLoadsTheState := by
  intro s v
  have hsweep : s.Sweeps (fun i => .wrl (laneBitsOf i) v[i]) (fun i _ => v[i]) (fun _ _ => 0) (List.finRange 25) :=
    fun i _ => ⟨laneLegal_laneBitsOf i, fun u _ => exec_wrl_eq_rewriteLane (fun i => v[i]) u i⟩
  refine ⟨_, _, rfl, runBeats_sweep hsweep (List.nodup_finRange 25) nofun, vector_ext fun j => ?_, fun j => ?_, rfl,
    ?_, rfl⟩
  · exact (lane_swept j).trans (if_pos (List.mem_finRange j))
  · simp [isDefined_swept]
  · simp [State.swept]

/-- Settles O12: RDALL is a sweep of RDL over all lanes, and changes none of them. -/
theorem rdallReadsTheState : Obligations.RdallReadsTheState := by
  intro s hb
  have hsweep : s.Sweeps (fun i => .rdl (laneBitsOf i)) (fun _ a => a) (fun _ a => a) (List.finRange 25) :=
    fun i _ => ⟨laneLegal_laneBitsOf i, fun u hu => exec_rdl_eq_rewriteLane (hu (hb i))⟩
  have hlanes : (s.swept (fun _ a => a) (fun _ a => a) (List.finRange 25)).lanes = s.lanes :=
    vector_ext fun j => (lane_swept j).trans (ite_self _)
  have hframe := swept_of_defined (f := fun _ a => a) (g := fun _ a => a) fun i (_ : i ∈ List.finRange 25) => hb i
  refine ⟨_, _, rfl, runBeats_sweep hsweep (List.nodup_finRange 25) nofun, rfl, ?_, ?_⟩
  · rw [State.swept, lanes_toList, List.map_map]; rfl
  · rwa [hlanes] at hframe

/-- Settles O60: XRBLK is a sweep of XRL over the first lanes, which are defined. -/
theorem xrblkXorsTheFirstLanes : Obligations.XrblkXorsTheFirstLanes := by
  intro s v hv hidle hd
  have hd : ∀ i ∈ firstLanes v.length hv, s.isDefined i = true := fun i hi => hd i (mem_firstLanes.1 hi)
  have hsweep : s.Sweeps (fun i => .xrl (laneBitsOf i) (v.getD i.val 0)) (fun i a => a ^^^ v.getD i.val 0)
      (fun _ _ => 0) (firstLanes v.length hv) :=
    fun i hi => ⟨laneLegal_laneBitsOf i, fun u hu => exec_xrl_eq_rewriteLane (fun i => v.getD i.val 0) (hu (hd i hi))⟩
  refine ⟨_, _, expandPseudo_xrblk hv, by rw [List.length_map, length_firstLanes],
    runBeats_sweep hsweep (nodup_firstLanes _ hv) fun h => hidle ?_, fun i => ?_, rfl, ?_, ?_⟩
  · rw [← List.length_eq_zero_iff, ← length_firstLanes _ hv, h, List.length_nil]
  · rw [lane_swept]
    by_cases hi : i.val < v.length <;> simp [mem_firstLanes, hi]
  · simp [State.swept, length_firstLanes]
  · exact swept_of_defined hd

/-- Settles O56, by induction on the list of commands. -/
theorem oneResponsePerCommand : Obligations.OneResponsePerCommand := by
  intro bs
  induction bs with
  | nil => exact fun s hc => ⟨s, [], rfl, hc, (List.append_nil _).symm, rfl⟩
  | cons b bs ih =>
    intro s _
    obtain ⟨t, r, ht, hr⟩ := execBeat_next b s
    obtain ⟨-, -, hdel⟩ := execBeat_keeps_host ht
    have htake := takeResponse_of_resp hr
    have htaken : t.takeResponse.delivered = s.delivered ++ [r] := by rw [htake, ← hdel]
    obtain ⟨u, rs, hu, hidle, hdel', hlen⟩ := ih t.takeResponse (by rw [htake])
    refine ⟨u, r :: rs, by rw [runBeats, ht]; exact hu, hidle, ?_, congrArg Nat.succ hlen⟩
    rw [hdel', htaken, ← List.append_cons]

/-- Settles O24, command by command. -/
theorem responseFormat : Obligations.ResponseFormat := by
  intro s b
  cases hb : decode b.cw b.d with
  | illegal c => exact ⟨_, _, execBeat_of_illegal hb s, rfl, by cases c <;> exact ⟨rfl, rfl⟩⟩
  | cmd i =>
    have hw := wellFormed_of_decode hb
    rw [execBeat_of_cmd hb]
    cases i with
    | nop => exact ⟨_, _, rfl, rfl, rfl, rfl⟩
    | wrl lane d => exact ⟨_, _, exec_wrl_of_lt (lt_of_laneLegal hw) d s, rfl, rfl, rfl⟩
    | xrl lane d => exact ⟨_, _, exec_xrl_of_lt (lt_of_laneLegal hw) d s, rfl, rfl, rfl⟩
    | rdl lane => exact ⟨_, _, exec_rdl_of_lt (lt_of_laneLegal hw) s, rfl, rfl, _, rfl, rfl⟩
    | clr => exact ⟨_, _, rfl, rfl, rfl, rfl⟩
    | perm =>
      cases hu : s.firstUndefined with
      | none => exact ⟨_, _, execPerm_of_defined hu, rfl, rfl, rfl⟩
      | some k => exact ⟨_, _, execPerm_of_undefined hu, rfl, rfl, rfl⟩
    | rds => exact ⟨_, _, rfl, rfl, rfl, rfl⟩

end Sys2Proof.Machine
end

section
/-! SUPPORT. `cmd_ready`, what an edge leaves due, a command accepted by hand, and the STATUS pins (30_encoding.md R64,
R65; 10_state.md R26; 70_reset_and_hazards.md R154). -/

namespace Sys2Proof.Machine

variable {s : State}

theorem cmdReady_eq_true_iff : s.cmdReady = true ↔ s.ctl = .idle ∧ s.pins.rst = false := by simp [State.cmdReady]

theorem cmdReady_of_rst (h : s.pins.rst = true) : s.cmdReady = false := by simp [State.cmdReady, h]

/-- An edge at which the block could accept a command leaves none due. -/
theorem passEdge_of_cmdReady (h : s.cmdReady = true) : s.passEdge = { s with inputs := s.inputs.tail, held := none } := by
  rw [State.passEdge, if_pos h]

/-- An edge at which the block cannot accept a command leaves the one on the pins due. -/
theorem passEdge_of_busy (h : s.ctl ≠ .idle) :
    s.passEdge = { s with inputs := s.inputs.tail, held := s.pins.cmd } := by
  rw [State.passEdge, if_neg fun hr => h (cmdReady_eq_true_iff.1 hr).1]

/-- The word of a table row is read where its beat decodes. -/
theorem decode_of_decodeTableWord {nbits w : Nat} {i : Instr} (h : decodeTableWord nbits w = some i) :
    decode (tableBeat nbits w).cw (tableBeat nbits w).d = .cmd i := by
  unfold decodeTableWord at h
  split at h
  · cases h; assumption
  · cases h

/-- Accepting a command by hand changes neither the rest of the host's plan nor the command on the pins. -/
theorem withAccepted_plan (s : State) (b : Beat) : (s.withAccepted b).inputs.tail = s.inputs.tail ∧
    (s.withAccepted b).pins.cmd = s.pins.cmd ∧ (s.withAccepted b).pins.rst = false := by
  simp only [State.pins, State.withAccepted_inputs]
  cases s.inputs <;> exact ⟨rfl, rfl, rfl⟩

/-- `status_o` shows the bits of STATUS (10_state.md R26). -/
theorem statusPins_getLsbD (st : Status) (k : Nat) (h : k < 3) : st.pins.getLsbD k = st.word.getLsbD k := by
  simp [Status.pins, h]

end Sys2Proof.Machine
end

section
/-! PROOFS. The port: one edge in each controller state, and the output pins (30_encoding.md R64, R65;
70_reset_and_hazards.md R151). -/

namespace Sys2Proof.Machine

/-- Settles O37: in EXEC no command is accepted, so that the one on the pins stays due. -/
theorem stepRunsTheDecodedCommand : Obligations.StepRunsTheDecodedCommand := by
  intro s b i hc hrst hduty hi
  rw [step_of_exec hrst hduty hc, execBeat_of_cmd hi, passEdge_of_busy (by simp [hc])]

/-- Settles O38: the state after the edge differs from `s` in the controller and the host's plan. -/
theorem fetchWordRunsNext : Obligations.FetchWordRunsNext := by
  intro s nbits w i h
  obtain ⟨htail, hcmd, hrst⟩ := withAccepted_plan s (tableBeat nbits w)
  refine ⟨_, stepRunsTheDecodedCommand (s.withAccepted (tableBeat nbits w)) (tableBeat nbits w) i rfl hrst
    (hostKeepsDuty_of_not_held rfl) (decode_of_decodeTableWord h), ?_⟩
  rw [htail, hcmd]; rfl

/-- Settles O39, case by case of IDLE and RESP. -/
theorem portHandshake : Obligations.PortHandshake := by
  intro s hrst hduty
  refine ⟨fun b hc hb => ?_, fun hc hb => ?_, fun r hc hr => ?_, fun r hc hr => ?_⟩
  · rw [step_of_idle hrst hduty hc, accept_of_cmd hb, passEdge_of_cmdReady (cmdReady_eq_true_iff.2 ⟨hc, hrst⟩)]
  · rw [step_of_idle hrst hduty hc, accept_of_no_cmd hb, passEdge_of_cmdReady (cmdReady_eq_true_iff.2 ⟨hc, hrst⟩)]
  · rw [step_of_resp hrst hduty hc, offerResponse_of_ready hr, passEdge_of_busy (by simp [hc])]
  · rw [step_of_resp hrst hduty hc, offerResponse_of_not_ready hr, passEdge_of_busy (by simp [hc])]

/-- Settles O40; the response register is empty after a reset edge. -/
theorem outputPins : Obligations.OutputPins := by
  refine fun s => ⟨cmdReady_eq_true_iff, fun r => Ctl.response_eq_some, ?_, ?_, fun h => ⟨cmdReady_of_rst h, ?_⟩⟩
  · rw [State.outputs_statusO, statusPins_getLsbD _ _ (by decide), statusWord_getLsbD, if_pos rfl]
  · refine BitVec.eq_of_getLsbD_eq fun k hk => ?_
    rw [BitVec.getLsbD_extractLsb', State.outputs_statusO, statusPins_getLsbD _ _ (by omega), statusWord_getLsbD]
    simp [hk, show 1 + k < 3 by omega]
  · exact ⟨_, step_of_rst h, rfl, rfl, nofun, cmdReady_of_rst⟩

end Sys2Proof.Machine
end

section
/-! SUPPORT. The lane commands on a lane given by its index and on a reserved lane field, what touching a lane changes,
and the CAUSE field of the STATUS word (10_state.md R26; 40_lane_access.md R82 to R84; 60_exceptions.md R136). -/

namespace Sys2Proof.Machine

variable {s : State} {lane : BitVec 5} {i : LaneIdx}

theorem onLane_of_toNat (hl : lane.toNat = i.val) (s : State) (f : LaneIdx → State) : onLane lane s f = .next (f i) := by
  have hi : (⟨lane.toNat, hl ▸ i.isLt⟩ : LaneIdx) = i := Fin.ext hl
  rw [onLane_of_lt (hl ▸ i.isLt), hi]

/-- XRL of an undefined lane, whole (40_lane_access.md R83). -/
theorem exec_xrl_of_undefined (hl : lane.toNat = i.val) (hd : s.isDefined i = false) (d : Word) :
    exec (.xrl lane d) s = .next (((s.raiseFault (.unwrittenLane i)).freeOne i).respond 0 0) := by
  have hd' : (s.raiseFault (.unwrittenLane i)).isDefined i = false := hd
  rw [exec, execXrl, onLane_of_toNat hl, touch_of_undefined hd, xorLane_of_undefined hd']

/-- RDL of a lane, defined or not, whole (40_lane_access.md R84). -/
theorem exec_rdl_of_toNat (hl : lane.toNat = i.val) (s : State) :
    exec (.rdl lane) s = .next ((s.touch i).respond (s.lane i) 0) := onLane_of_toNat hl s _

/-- A command whose lane field is reserved is the illegal command with cause 3. -/
theorem exec_of_reserved_lane {c : Instr} (hu : c.usesLane = true) (h : 25 ≤ c.laneBits.toNat) (s : State) :
    exec c s = .next (s.raiseIllegal .badLane) := by
  cases c with
  | wrl lane d => exact onLane_of_le h s _
  | xrl lane d => exact onLane_of_le h s _
  | rdl lane => exact onLane_of_le h s _
  | nop | clr | perm | rds => cases hu

theorem touch_raised (s : State) (i : LaneIdx) :
    (s.touch i).raised = if s.isDefined i then s.raised else s.raised.or (some (.unwrittenLane i)) := by
  cases hd : s.isDefined i with
  | true => rw [touch_of_defined hd]; rfl
  | false => rw [touch_of_undefined hd]; rfl

/-- Touching a lane changes the recorded fault at most. -/
theorem touch_eq (s : State) (i : LaneIdx) : s.touch i = { s with raised := (s.touch i).raised } := by
  cases hd : s.isDefined i with
  | true => rw [touch_of_defined hd]
  | false => rw [touch_of_undefined hd]; rfl

/-- Bits 2:1 of the STATUS word are CAUSE (10_state.md R26). -/
theorem statusWord_cause (st : Status) : st.word.extractLsb' 1 2 = st.cause := by
  refine BitVec.eq_of_getLsbD_eq fun k hk => ?_
  rw [BitVec.getLsbD_extractLsb', statusWord_getLsbD]
  simp [hk, show 1 + k < 3 by omega]

end Sys2Proof.Machine
end

section
/-! PROOFS. The lane access and control commands, result and frame (40_lane_access.md R81 to R86; 60_exceptions.md
R131, R136). -/

namespace Sys2Proof.Machine

/-- Settles O13: NOP is its response. -/
theorem nopOnlyResponds : Obligations.NopOnlyResponds := fun _ => ⟨_, rfl, rfl, rfl⟩

/-- Settles O14, whether or not the lane is defined before. -/
theorem wrlWritesOneLane : Obligations.WrlWritesOneLane := by
  intro s lane d hl
  have hown : ∀ j : LaneIdx, j = ⟨lane.toNat, hl⟩ ↔ j.val = lane.toNat := fun j => Fin.ext_iff
  refine ⟨_, exec_wrl_of_lt hl d s, fun j => ?_, fun j => ?_, rfl, rfl⟩
  · simp [lane_setLane, hown]
  · simp [isDefined_define, Bool.beq_eq_decide_eq, hown]

/-- Settles O15: a defined lane is read, XORed and written back. -/
theorem xrlXorsADefinedLane : Obligations.XrlXorsADefinedLane := fun s i _ d hl hd =>
  ⟨_, exec_xrl_of_defined hl hd d, fun j => lane_setLane s i j _, rfl, rfl⟩

/-- Settles O16: an undefined lane takes the next free value, whatever it is XORed with. -/
theorem xrlOfAnUndefinedLane : Obligations.XrlOfAnUndefinedLane := fun s i _ d hl hd =>
  ⟨_, exec_xrl_of_undefined hl hd d, fun j => lane_freeOne (s.raiseFault (.unwrittenLane i)) i j, rfl, rfl, rfl, rfl⟩

/-- Settles O17: touching the lane changes no lane, and the fault only of an undefined one. -/
theorem rdlReturnsTheLane : Obligations.RdlReturnsTheLane := by
  intro s i lane hl
  refine ⟨_, exec_rdl_of_toNat hl s, rfl, touch_raised s i, ?_⟩
  exact congrArg (fun u : State => u.respond (s.lane i) 0) (touch_eq s i)

/-- Settles O18: the lanes and the flags are loaded whole. -/
theorem clrClearsEveryLane : Obligations.ClrClearsEveryLane := fun _ =>
  ⟨_, rfl, fun i => tabulate_get _ i, fun i => tabulate_get _ i, rfl, rfl⟩

/-- Settles O19: the response is the STATUS word, read bit by bit. -/
theorem rdsReturnsStatus : Obligations.RdsReturnsStatus := by
  refine fun s => ⟨_, s.status.word, rfl, rfl, ?_, statusWord_cause _, fun k hk => ?_, rfl⟩
  · rw [statusWord_getLsbD, if_pos rfl]
  · rw [statusWord_getLsbD, if_neg (by omega), if_neg (by omega)]

/-- Settles O22: each of the three commands has the reserved lane field as its own. -/
theorem reservedLanesAreIllegal : Obligations.ReservedLanesAreIllegal := by
  intro s lane d i hl hi
  obtain ⟨hu, hbits⟩ : i.usesLane = true ∧ i.laneBits = lane := by obtain rfl | rfl | rfl := hi <;> exact ⟨rfl, rfl⟩
  exact ⟨_, exec_of_reserved_lane hu (hbits ▸ hl) s, rfl, rfl, rfl, rfl⟩

end Sys2Proof.Machine
end

section
/-! SUPPORT. The rotation as the library's, the step mappings lane by lane, pi's two directions inverse to each other,
the walk over the cycle as a whole, and the bits of a generated round constant (00_scope.md R11; 41_permutation.md R100
to R107, R112, R113). -/

namespace Sys2Proof.Machine

/-! ### Rotation -/

theorem rotl64_eq_rotateLeft (v : Word) (n : Nat) : rotl64 v n = v.rotateLeft n := rfl

@[simp] theorem rotl64_zero (v : Word) : rotl64 v 0 = v := by
  simp [rotl64, BitVec.ushiftRight_eq_zero]

theorem rotl64_mod (v : Word) (n : Nat) : rotl64 v (n % 64) = rotl64 v n := by
  simp only [rotl64_eq_rotateLeft, BitVec.rotateLeft_mod_eq_rotateLeft]

@[simp] theorem zero_rotl64 (n : Nat) : rotl64 0#64 n = 0#64 := by simp [rotl64]

/-- As a number, the value shifted both ways; only the left shift can exceed 64 bits. -/
theorem rotl64_toNat (v : Word) (n : Nat) :
    (rotl64 v n).toNat = ((v.toNat <<< (n % 64)) ||| (v.toNat >>> (64 - n % 64))) % 2 ^ 64 := by
  have hright : v.toNat >>> (64 - n % 64) < 2 ^ 64 := (Nat.shiftRight_le _ _).trans_lt v.isLt
  rw [rotl64_eq_rotateLeft, BitVec.toNat_rotateLeft, Nat.or_mod_two_pow, Nat.mod_eq_of_lt hright]

/-- Bit `z` comes from `n mod 64` places below it, around the end (R102). -/
theorem rotl64_getLsbD (v : Word) (n : Nat) {z : Nat} (hz : z < 64) :
    (rotl64 v n).getLsbD z = v.getLsbD ((z + (64 - n % 64)) % 64) := by
  rw [rotl64_eq_rotateLeft, BitVec.getLsbD_rotateLeft]
  by_cases h : z < n % 64
  · have : (z + (64 - n % 64)) % 64 = 64 - n % 64 + z := by omega
    rw [decide_eq_true h, this, cond_true]
  · have : (z + (64 - n % 64)) % 64 = z - n % 64 := by omega
    rw [decide_eq_false h, this, cond_false, decide_eq_true hz, Bool.true_and]

/-! ### Coordinates -/

/-- Coordinates count modulo 5 (R11). -/
theorem laneAt_congr {x x' y y' : Nat} (hx : x % 5 = x' % 5) (hy : y % 5 = y' % 5) : laneAt x y = laneAt x' y' := by
  simp only [laneAt, hx, hy]

theorem piDest_laneAt (x y : Nat) : piDest (laneAt x y) = laneAt y (2 * x + 3 * y) := by
  rw [piDest, col_laneAt, row_laneAt]
  exact laneAt_congr (by omega) (by omega)

theorem piSource_laneAt (x y : Nat) : piSource (laneAt x y) = laneAt (x + 3 * y) x := by
  rw [piSource, col_laneAt, row_laneAt]
  exact laneAt_congr (by omega) (by omega)

/-- R105's second form is the inverse of the first. -/
@[simp] theorem piSource_piDest (i : LaneIdx) : piSource (piDest i) = i := by
  rw [piDest, piSource_laneAt]
  exact (laneAt_congr (by omega) rfl).trans (laneAt_col_row i)

@[simp] theorem piDest_piSource (i : LaneIdx) : piDest (piSource i) = i := by
  rw [piSource, piDest_laneAt]
  exact (laneAt_congr rfl (by omega)).trans (laneAt_col_row i)

/-! ### The step mappings, lane by lane -/

section

variable (A : Lanes) (i : LaneIdx)

theorem theta_getElem : (theta A)[i] = A[i] ^^^ atCol (thetaOffsets (parities A)) (col i) := tabulate_get _ i

theorem rho_getElem : (rho A)[i] = rotl64 A[i] RHO[i] := tabulate_get _ i

theorem pi_getElem : (pi A)[i] = A[piSource i] := tabulate_get _ i

/-- R105's first form, from the second. -/
theorem pi_getElem_piDest : (pi A)[piDest i] = A[i] := by simp only [pi_getElem, piSource_piDest]

/-- Rho, then pi, by source lane (R113). -/
theorem pi_rho_getElem_piDest : (pi (rho A))[piDest i] = rotl64 A[i] RHO[i] := by rw [pi_getElem_piDest, rho_getElem]

theorem chi_laneAt (x y : Nat) :
    (chi A)[laneAt x y] = A[laneAt x y] ^^^ (~~~ A[laneAt (x + 1) y] &&& A[laneAt (x + 2) y]) := by
  have hnext (k : Nat) : laneAt (x % 5 + k) (y % 5) = laneAt (x + k) y := laneAt_congr (by omega) (by omega)
  simp only [chi, tabulate_get, col_laneAt, row_laneAt, hnext]

theorem iota_getElem_zero (ir : RoundIdx) : (iota A ir)[(0 : LaneIdx)] = A[(0 : LaneIdx)] ^^^ RC ir :=
  (getElem_set_lane A 0 0 _).trans (if_pos rfl)

theorem iota_getElem_of_ne {i : LaneIdx} (hi : i ≠ 0) (ir : RoundIdx) : (iota A ir)[i] = A[i] :=
  (getElem_set_lane A 0 i _).trans (if_neg hi)

end

/-- Rho and pi by any table that agrees with `piDest` and `RHO`. -/
theorem pi_rho_of_table {table : List (LaneIdx × LaneIdx × Nat)}
    (h : ∀ row ∈ table, row.2.1 = piDest row.1 ∧ row.2.2 = RHO[row.1]) (A : Lanes) :
    ∀ row ∈ table, (pi (rho A))[row.2.1] = rotl64 A[row.1] row.2.2 := by
  intro row hrow
  obtain ⟨hdest, hrot⟩ := h row hrow
  simpa only [hdest, hrot] using pi_rho_getElem_piDest A row.1

/-! ### The walk over the whole cycle -/

theorem piCycle_nodup : piCycle.Nodup := by decide

/-- Where the walk visits a lane right after another, it moves the other's old value there. -/
theorem walk_consecutive (f : Word → LaneIdx → Word) {l : List LaneIdx} (hl : l.Nodup) {p d : LaneIdx}
    (h : [p, d] <:+: l) (w : Walk) : (l.foldl (walkMove f) w).lanes[d] = f w.lanes[p] p := by
  obtain ⟨before, after, rfl⟩ := h
  rw [show before ++ [p, d] ++ after = before ++ [p] ++ d :: after by simp] at hl ⊢
  obtain ⟨hbefore, hafter, -⟩ := List.nodup_append.1 hl
  obtain ⟨-, -, hp⟩ := List.nodup_append.1 hbefore
  exact walk_visited f before after p d w (fun hmem => hp p hmem p (List.mem_singleton_self p) rfl)
    (List.nodup_cons.1 hafter).1

/-- The cycle visits every lane right after its source, but for lane 0, and for the lane whose source is 1, where the
walk starts (R112). -/
theorem piCycle_follows_piSource :
    ∀ i : LaneIdx, piSource i ≠ 0 → piSource i ≠ 1 → [piSource i, i] <:+: piCycle := by decide

theorem eq_piDest_of_piSource {i j : LaneIdx} (h : piSource i = j) : i = piDest j :=
  h ▸ (piDest_piSource i).symm

/-- The walk does what pi does, applying `f` to each lane and its source, where `f` keeps lane 0. -/
theorem walkCycle_getElem {f : Word → LaneIdx → Word} {A : Lanes} (hf : f A[0] 0 = A[0]) (i : LaneIdx) :
    (walkCycle f A)[i] = f A[piSource i] (piSource i) := by
  by_cases h0 : piSource i = 0
  · obtain rfl : i = 0 := eq_piDest_of_piSource h0
    exact (walk_not_visited f piCycle _ 0 (by decide)).trans hf.symm
  by_cases h1 : piSource i = 1
  · obtain rfl : i = 10 := eq_piDest_of_piSource h1
    exact walk_first f piCycle.tail 10 _ (by decide)
  · exact walk_consecutive f piCycle_nodup (piCycle_follows_piSource i h0 h1) _

/-! ### The round constants -/

/-- Setting bits one by one: a bit is set if it was, or if a chosen entry of the list names it. -/
theorem foldl_setBit_getLsbD (p : Nat → Bool) (pos : Nat → Nat) (l : List Nat) (w : Word) {z : Nat} (hz : z < 64) :
    (l.foldl (fun w j => if p j then w ||| (1#64 <<< pos j) else w) w).getLsbD z = true ↔
      w.getLsbD z = true ∨ ∃ j ∈ l, z = pos j ∧ p j = true := by
  induction l generalizing w with
  | nil => simp
  | cons j l ih =>
    have hbit : (1#64 <<< pos j).getLsbD z = decide (z = pos j) := by
      rw [← BitVec.twoPow_eq, BitVec.getLsbD_twoPow, Bool.eq_iff_iff]
      simp only [Bool.and_eq_true, decide_eq_true_eq]
      omega
    have hfirst : (if p j then w ||| (1#64 <<< pos j) else w).getLsbD z = true ↔
        w.getLsbD z = true ∨ z = pos j ∧ p j = true := by
      cases hp : p j <;> simp [hbit]
    rw [List.foldl_cons, ih, hfirst, or_assoc, List.exists_mem_cons_iff]

/-- Bit `z` of a generated constant (R100). -/
theorem generatedRC_getLsbD (ir : Nat) {z : Nat} (hz : z < 64) :
    (generatedRC ir).getLsbD z = true ↔ ∃ j : Fin 7, z = 2 ^ j.val - 1 ∧ lfsrBit (j.val + 7 * ir) = true := by
  rw [generatedRC, foldl_setBit_getLsbD (fun j => lfsrBit (j + 7 * ir)) (fun j => 2 ^ j - 1) _ _ hz]
  simp [Fin.exists_iff, and_left_comm]

/-- R100's table is what the generator gives, constant by constant. -/
theorem RC_eq_generatedRC : ∀ ir : RoundIdx, RC ir = generatedRC ir.val := by decide

/-! ### The rounds -/

/-- A sequence that follows `g` step by step is the fold of `g` over the step numbers. -/
theorem foldl_finRange_of_follows {α : Type} : ∀ {n : Nat} (g : α → Fin n → α) (f : Nat → α),
    (∀ k : Fin n, f (k.val + 1) = g (f k.val) k) → (List.finRange n).foldl g (f 0) = f n
  | 0, _, _, _ => rfl
  | n + 1, g, f, h => by
    have hinit : (List.finRange n).foldl (fun a k => g a k.castSucc) (f 0) = f n :=
      foldl_finRange_of_follows _ f fun k => h k.castSucc
    rw [List.finRange_succ_last, List.foldl_append, List.foldl_map, hinit]
    exact (h (Fin.last n)).symm

end Sys2Proof.Machine
end

section
/-! PROOFS. The rotation, the five step mappings, the 24 rounds, and pi's walk (41_permutation.md R100 to R109, R112,
R113). -/

namespace Sys2Proof.Machine

/-- Settles O26: the rotation is the library's. -/
theorem rotl64IsACircularShift : Obligations.Rotl64IsACircularShift := fun v n =>
  ⟨rotl64_toNat v n, rotl64_zero v, (rotl64_mod v 64).symm.trans (rotl64_zero v), (rotl64_mod v n).symm,
    fun _ hz => rotl64_getLsbD v n hz⟩

/-- Settles O27: the parities and offsets of the rule are those of the model. -/
theorem thetaLaw : Obligations.ThetaLaw := by
  intro A C D hC hD i
  have hpar (x : Nat) : atCol (parities A) x = C (x % 5) := by
    rw [parities, atCol_columns, hC _ (Nat.mod_lt _ (by decide))]
  rw [theta_getElem, thetaOffsets, atCol_columns, hpar, hpar, hD _ (Nat.mod_lt _ (by decide)), col, Nat.mod_mod]

/-- Settles O28: where every parity is 0, so is every offset. -/
theorem thetaFixesEvenColumns : Obligations.ThetaFixesEvenColumns := by
  intro A hA
  refine vector_ext fun i => ?_
  exact (thetaLaw A (fun _ => 0) (fun _ => 0) (fun x hx => (hA x hx).symm) (by simp) i).trans BitVec.xor_zero

/-- Settles O29, `RHO[0]` being 0. -/
theorem rhoLaw : Obligations.RhoLaw := fun A =>
  ⟨rho_getElem A, (rho_getElem A _).trans (rotl64_zero _)⟩

/-- Settles O30: pi's two forms are inverse to each other, and `y = x` and `2x + 3y = y` mod 5 only at the origin. -/
theorem piLaw : Obligations.PiLaw := by
  refine fun A => ⟨fun x y _ _ => ?_, fun x y _ _ => ?_, fun x y hx hy => ?_⟩
  · simpa only [piDest_laneAt] using pi_getElem_piDest A (laneAt x y)
  · simpa only [piSource_laneAt] using pi_getElem A (laneAt x y)
  · rw [Fin.ext_iff, laneAt_val, laneAt_val]
    omega

/-- Settles O31: the three lanes chi reads are of one row. -/
theorem chiLaw : Obligations.ChiLaw := by
  refine ⟨fun A x y _ _ => chi_laneAt A x y, fun A B y _ hrow x _ => ?_⟩
  have hrow (x : Nat) : A[laneAt x y] = B[laneAt x y] := by
    simpa only [laneAt_congr (Nat.mod_mod x 5) rfl] using hrow (x % 5) (Nat.mod_lt _ (by decide))
  rw [chi_laneAt, chi_laneAt, hrow, hrow, hrow]

/-- Settles O32: the constants are compared with the generated ones, whose bits the generator sets one by one. -/
theorem iotaLaw : Obligations.IotaLaw := by
  refine ⟨fun A ir => ⟨iota_getElem_zero A ir, fun i hi => iota_getElem_of_ne A hi ir, vector_ext fun i => ?_⟩,
    RC_eq_generatedRC, fun ir z => ?_⟩
  · obtain rfl | hi := eq_or_ne i 0
    · rw [iota_getElem_zero, iota_getElem_zero, BitVec.xor_assoc, BitVec.xor_self, BitVec.xor_zero]
    · rw [iota_getElem_of_ne _ hi, iota_getElem_of_ne _ hi]
  · rw [RC_eq_generatedRC, generatedRC_getLsbD _ z.isLt]

/-- Settles O33: `keccakF` is a fold over the round indices. -/
theorem keccakIsTwentyFourRounds : Obligations.KeccakIsTwentyFourRounds := fun f hf =>
  foldl_finRange_of_follows keccakRound f hf

/-- Settles O34: the rows agree with `piDest` and `RHO`. -/
theorem combinedRhoPiTable : Obligations.CombinedRhoPiTable := pi_rho_of_table (by decide)

/-- Settles O35: the facts about the list are checked entry by entry; the walk does what pi does. -/
theorem piWalkIsPi : Obligations.PiWalkIsPi := by
  refine ⟨rfl, piCycle_nodup, by decide, by decide, rfl, rfl, by decide, fun A => vector_ext fun i => ?_,
    fun A => vector_ext fun i => ?_⟩
  · rw [piInPlace, walkCycle_getElem rfl, pi_getElem]
  · rw [rhoPiInPlace, walkCycle_getElem (rotl64_zero _), pi_getElem, rho_getElem]

end Sys2Proof.Machine
end

section
/-! PROOFS. The PERM command, on a booted block and with an undefined lane (41_permutation.md R110; 60_exceptions.md
R136). -/

namespace Sys2Proof.Machine

theorem loadLanes_of_booted {s : State} (hb : s.booted) (A : Lanes) : s.loadLanes A = { s with lanes := A } := by
  have hdef : (tabulate fun _ => true) = s.defined := vector_ext fun i => (tabulate_get _ i).trans (hb i).symm
  rw [State.loadLanes, hdef]

/-- Settles O20: no lane is undefined, so that the flags loaded are those there were. -/
theorem permAppliesKeccakF : Obligations.PermAppliesKeccakF := by
  intro s hb
  refine ⟨_, execPerm_of_defined ((firstUndefined_eq_none s).2 hb), ?_⟩
  rw [loadLanes_of_booted hb]
  exact ⟨rfl, rfl, rfl, rfl⟩

/-- Settles O21: the lowest undefined lane is the first, and all lanes are set free. -/
theorem permWithAnUndefinedLane : Obligations.PermWithAnUndefinedLane := fun _ _ hd hlow =>
  ⟨_, execPerm_of_undefined (firstUndefined_of_lowest hd hlow), fun j => ⟨tabulate_get _ j, tabulate_get _ j⟩, rfl, rfl,
    rfl, rfl⟩

end Sys2Proof.Machine
end

section
/-! SUPPORT. The lane a command faults on, what one command and the port record in `raised`, when a strict step stops,
and a block's step inverted (60_exceptions.md R136, R138). -/

namespace Sys2Proof.Machine

variable {s t : State}

/-- The lowest undefined lane is undefined, and every lane below it is defined. -/
theorem firstUndefined_eq_some_iff {i : LaneIdx} : s.firstUndefined = some i ↔
    s.isDefined i = false ∧ ∀ j : LaneIdx, j < i → s.isDefined j = true := by
  refine ⟨fun h => ⟨firstUndefined_eq_some h, fun j hj => ?_⟩, fun ⟨hd, low⟩ => firstUndefined_of_lowest hd low⟩
  obtain ⟨-, n, hn, hni, hlow⟩ := List.find?_eq_some_iff_getElem.1 h
  rw [List.getElem_finRange] at hni
  subst hni
  simpa using hlow j.val hj

/-! ### The lane a command faults on -/

/-- The lane a lane field names, where it names an undefined one. -/
def State.undefinedLane (s : State) (lane : BitVec 5) : Option LaneIdx :=
  (laneIndex lane).filter fun i => !s.isDefined i

/-- The lane for which a command raises `UnwrittenLane` (60_exceptions.md R136), if there is one. -/
def State.faultLane (s : State) : Instr → Option LaneIdx
  | .xrl lane _ | .rdl lane => s.undefinedLane lane
  | .perm => s.firstUndefined
  | .nop | .wrl _ _ | .clr | .rds => none

theorem laneIndex_eq_some_iff {lane : BitVec 5} {i : LaneIdx} : laneIndex lane = some i ↔ lane.toNat = i.val := by
  by_cases h : lane.toNat < 25
  · rw [laneIndex_of_lt h, Option.some_inj, Fin.ext_iff]
  · exact iff_of_false (by simp [laneIndex_of_not_lt h]) (by omega)

theorem undefinedLane_eq_some_iff {lane : BitVec 5} {i : LaneIdx} :
    s.undefinedLane lane = some i ↔ s.isDefined i = false ∧ lane.toNat = i.val := by
  rw [State.undefinedLane, Option.filter_eq_some_iff, laneIndex_eq_some_iff, Bool.not_eq_true', and_comm]

@[simp] theorem faultLane_passEdge (s : State) (c : Instr) : s.passEdge.faultLane c = s.faultLane c := rfl

/-- R136's three cases: RDL and XRL of an undefined lane, and PERM, whose lane is the lowest undefined one. -/
theorem faultLane_eq_some_iff {c : Instr} {i : LaneIdx} : s.faultLane c = some i ↔
    s.isDefined i = false ∧
      ((∃ lane, lane.toNat = i.val ∧ c = .rdl lane) ∨ (∃ lane d, lane.toNat = i.val ∧ c = .xrl lane d) ∨
        (c = .perm ∧ ∀ j : LaneIdx, j < i → s.isDefined j = true)) := by
  cases c with
  | xrl lane d => simp [State.faultLane, undefinedLane_eq_some_iff]
  | rdl lane => simp [State.faultLane, undefinedLane_eq_some_iff]
  | perm => simp [State.faultLane, firstUndefined_eq_some_iff]
  | nop | wrl _ _ | clr | rds => simp [State.faultLane]

/-! ### What is recorded -/

/-- A command that touches the lane it names, and records nothing else, records that lane if it is undefined. -/
theorem onLane_raised {lane : BitVec 5} {f : LaneIdx → State} (h : onLane lane s f = .next t)
    (hf : ∀ i, (f i).raised = (s.touch i).raised) :
    t.raised = s.raised.or ((s.undefinedLane lane).map .unwrittenLane) := by
  cases hl : laneIndex lane with
  | none =>
    rw [onLane, hl] at h
    cases h
    simp [State.undefinedLane, hl]
  | some i =>
    rw [onLane, hl] at h
    cases h
    cases hd : s.isDefined i <;> simp [hf, touch_raised, State.undefinedLane, hl, hd, Option.filter_some]

/-- A command records the fault of the lane it faults on, unless a fault is recorded already. -/
theorem exec_raised {c : Instr} (h : exec c s = .next t) :
    t.raised = s.raised.or ((s.faultLane c).map .unwrittenLane) := by
  cases c with
  | wrl lane d =>
    obtain ⟨i, -, e⟩ | ⟨-, e⟩ := onLane_cases lane s fun i => ((s.setLane i d).define i).respond 0 0 <;>
      (rw [exec, execWrl, e] at h; cases h; simp [State.faultLane])
  | xrl lane d => exact onLane_raised h fun i => by simp
  | rdl lane => exact onLane_raised h fun _ => rfl
  | perm =>
    cases hu : s.firstUndefined with
    | none => rw [exec, execPerm_of_defined hu] at h; cases h; simp [State.faultLane, hu]
    | some i => rw [exec, execPerm_of_undefined hu] at h; cases h; simp [State.faultLane, hu]
  | nop | clr | rds => cases h; simp [State.faultLane]

@[simp] theorem accept_raised (s : State) : s.accept.raised = s.raised := by unfold State.accept; split <;> rfl
@[simp] theorem offerResponse_raised (s : State) (r : Response) : (s.offerResponse r).raised = s.raised := by
  unfold State.offerResponse; split <;> rfl

/-- With no fault before, a strict step stops with exactly the fault the step records. -/
theorem strictStep_eq_fault_iff {f : Fault} (hr : s.raised = none) (h : step s = .next t) :
    strictStep s = .fault f ↔ t.raised = some f := by
  simp only [strictStep, hr, h]
  cases t.raised <;> simp

/-! ### Blocks -/

/-- A block's step answers the blocks with that one replaced by its own next state. -/
theorem stepBlock_eq_next {k : Nat} {blocks after : Blocks} (h : stepBlock k blocks = some (.next after)) :
    ∃ s t, blocks[k]? = some s ∧ step s = .next t ∧ after = blocks.set k t := by
  cases hk : blocks[k]? with
  | none => simp [stepBlock, hk] at h
  | some s =>
    cases hs : step s with
    | next t =>
      simp only [stepBlock, hk, hs, Option.some.injEq, Host.Outcome.next.injEq] at h
      exact ⟨s, t, rfl, hs, h.symm⟩
    | fault f => simp [stepBlock, hk, hs] at h
    | refused r => simp [stepBlock, hk, hs] at h

end Sys2Proof.Machine
end

section
/-! PROOFS. The illegal command, sticky STATUS, the model faults, and several blocks (60_exceptions.md R130, R131, R135,
R136, R138). -/

namespace Sys2Proof.Machine

/-- Settles O52: the strict step stops with the fault the completing command records, an illegal one recording none. -/
theorem strictStepFaultsOnUndefinedLanes : Obligations.StrictStepFaultsOnUndefinedLanes := by
  intro s b hr hc hrst hduty i
  have hstep := step_of_exec hrst hduty hc
  cases hb : decode b.cw b.d with
  | illegal c =>
    rw [strictStep_eq_fault_iff hr (hstep.trans (execBeat_of_illegal hb _))]
    simp [hr]
  | cmd c =>
    obtain ⟨t, -, ht, -⟩ := exec_next c s.passEdge
    have hraised : t.raised = (s.faultLane c).map .unwrittenLane := by
      rw [exec_raised ht, State.passEdge_raised, hr, Option.none_or, faultLane_passEdge]
    rw [strictStep_eq_fault_iff hr ((hstep.trans (execBeat_of_cmd hb _)).trans ht), hraised]
    simp [faultLane_eq_some_iff]

/-- Settles O46: without reset STATUS changes by the sticky update at most, which leaves a set STATUS alone. -/
theorem statusIsSticky : Obligations.StatusIsSticky := by
  refine ⟨fun s t h hrst hill => ?_, fun s t h hrst => ?_, fun s b c hb hill => ?_⟩
  · obtain ⟨hr, -⟩ | ⟨-, -, ⟨-, rfl⟩ | ⟨b, i, -, hi, he⟩ | ⟨b, c, -, -, rfl⟩ | ⟨r, -, rfl⟩⟩ := step_next_cases h
    · simp [hrst] at hr
    · exact accept_status s
    · exact (exec_status_ctl (wellFormed_of_decode hi) he).1
    · exact record_of_illegal hill c
    · exact offerResponse_status s r
  · rw [step_of_rst hrst] at h
    cases h
    exact ⟨rfl, rfl⟩
  · exact ⟨_, execBeat_of_illegal hb s, record_of_illegal hill c, rfl⟩

/-- Settles O49: a command records a fault only where none is recorded, and no other case of a step, reset included,
records any. -/
theorem faultsAreNeverCleared : Obligations.FaultsAreNeverCleared := by
  intro s t f hf h
  obtain ⟨-, rfl⟩ | ⟨-, -, ⟨-, rfl⟩ | ⟨b, i, -, -, he⟩ | ⟨b, c, -, -, rfl⟩ | ⟨r, -, rfl⟩⟩ := step_next_cases h
  · exact hf
  · exact (accept_raised s).trans hf
  · rw [exec_raised he, State.passEdge_raised, hf, Option.some_or]
  · exact hf
  · exact (offerResponse_raised s r).trans hf

/-- Settles O23: the outcome is `raiseIllegal`, whatever the cause. -/
theorem illegalCommandOnlySetsStatus : Obligations.IllegalCommandOnlySetsStatus := fun s b c hb =>
  ⟨_, causeCode c, execBeat_of_illegal hb s, rfl, by cases c <;> rfl, rfl, rfl, rfl⟩

/-- Settles O58: the one entry of the list that is replaced is block `k`. -/
theorem blocksShareNothing : Obligations.BlocksShareNothing := by
  intro k blocks after h
  obtain ⟨s, t, hk, hs, rfl⟩ := stepBlock_eq_next h
  obtain ⟨hlt, -⟩ := List.getElem?_eq_some_iff.1 hk
  exact ⟨List.length_set, fun j hj => List.getElem?_set_ne hj.symm, s, t, hk, hs, List.getElem?_set_self hlt⟩

end Sys2Proof.Machine
end

section
/-! SUPPORT. A pass over all lanes, chi's rows in place one after the other, and a round in place (41_permutation.md
R106, R112; 70_reset_and_hazards.md R157). -/

namespace Sys2Proof.Machine

/-- A pass over all lanes in place, each updated from itself, is the update of all lanes at once. -/
theorem foldl_set_finRange (f : LaneIdx → Word → Word) (A : Lanes) :
    (List.finRange 25).foldl (fun (B : Lanes) (i : LaneIdx) => B.set i (f i B[i])) A = tabulate fun i => f i A[i] :=
  vector_ext fun i => by
    rw [foldl_set_getElem f _ (List.nodup_finRange 25), if_pos (List.mem_finRange i), tabulate_get]

theorem thetaInPlace_eq (A : Lanes) : thetaInPlace A = theta A :=
  foldl_set_finRange (fun i v => v ^^^ atCol (thetaOffsets (parities A)) (col i)) A

theorem rhoInPlace_eq (A : Lanes) : rhoInPlace A = rho A := foldl_set_finRange (fun i v => rotl64 v RHO[i]) A

theorem rhoPiInPlace_eq (A : Lanes) : rhoPiInPlace A = pi (rho A) := by
  obtain ⟨-, -, -, -, -, -, -, -, h⟩ := piWalkIsPi
  exact h A

/-! ### Chi, row by row -/

theorem row_lt (i : LaneIdx) : row i < 5 := by rw [row]; omega

/-- The lanes of row `y`, in the order in which chi updates them. -/
def rowLanes (y : Nat) : List LaneIdx := (List.range 5).map fun x => laneAt x y

theorem nodup_rowLanes (y : Nat) : (rowLanes y).Nodup := by
  refine List.Nodup.map_on (fun x hx x' hx' h => ?_) List.nodup_range
  have hval := congrArg Fin.val h
  rw [laneAt_val, laneAt_val] at hval
  rw [List.mem_range] at hx hx'
  omega

theorem mem_rowLanes {y : Nat} (hy : y < 5) {i : LaneIdx} : i ∈ rowLanes y ↔ row i = y := by
  rw [rowLanes, List.mem_map]
  constructor
  · rintro ⟨x, -, rfl⟩
    rw [row_laneAt, Nat.mod_eq_of_lt hy]
  · rintro rfl
    exact ⟨col i, List.mem_range.2 (Nat.mod_lt _ (by decide)), laneAt_col_row i⟩

/-- The snapshot holds the row as it was before chi, at every coordinate modulo 5. -/
theorem atCol_snapshot (A : Lanes) (x y : Nat) : atCol (columns fun x => A[laneAt x y]) x = A[laneAt x y] := by
  simp only [atCol_columns, laneAt_congr (Nat.mod_mod x 5) rfl]

/-- With the snapshot, updating a row in place sets each lane of the row to its lane after chi, and no other lane. -/
theorem chiRowInPlace_getElem (A : Lanes) {y : Nat} (hy : y < 5) (i : LaneIdx) :
    (chiRowInPlace A y)[i] = if row i = y then (chi A)[i] else A[i] := by
  have hset : chiRowInPlace A y = (rowLanes y).foldl (fun (B : Lanes) (j : LaneIdx) => B.set j (chi A)[j]) A := by
    simp only [chiRowInPlace, rowLanes, List.foldl_map, atCol_snapshot, chi_laneAt]
  rw [hset, foldl_set_getElem (fun j _ => (chi A)[j]) _ (nodup_rowLanes y)]
  simp only [mem_rowLanes hy]

/-- Chi of a lane depends on the lane's row only (R106). -/
theorem chi_getElem_congr {A B : Lanes} {i : LaneIdx} (h : ∀ j : LaneIdx, row j = row i → A[j] = B[j]) :
    (chi A)[i] = (chi B)[i] := by
  have hrow (x : Nat) : A[laneAt x (row i)] = B[laneAt x (row i)] :=
    h _ (by rw [row_laneAt, Nat.mod_eq_of_lt (row_lt i)])
  rw [← laneAt_col_row i, chi_laneAt, chi_laneAt, hrow, hrow, hrow]

/-- Distinct rows updated in place one after the other: each is computed from its own lanes, which the rows before it
have left alone. -/
theorem foldl_chiRowInPlace_getElem (ys : List Nat) (hys : ys.Nodup) (hlt : ∀ y ∈ ys, y < 5) (A : Lanes)
    (i : LaneIdx) : (ys.foldl chiRowInPlace A)[i] = if row i ∈ ys then (chi A)[i] else A[i] := by
  induction ys generalizing A with
  | nil => simp
  | cons y ys ih =>
    obtain ⟨hy, hys⟩ := List.nodup_cons.1 hys
    obtain ⟨hy5, hlt⟩ := List.forall_mem_cons.1 hlt
    rw [List.foldl_cons, ih hys hlt, chiRowInPlace_getElem A hy5]
    by_cases hi : row i = y
    · simp [hi, hy]
    · have hchi : (chi (chiRowInPlace A y))[i] = (chi A)[i] :=
        chi_getElem_congr fun j hj => by rw [chiRowInPlace_getElem A hy5, if_neg (hj ▸ hi)]
      simp [hi, hchi]

theorem chiInPlace_eq (A : Lanes) : chiInPlace A = chi A :=
  vector_ext fun i => by
    rw [chiInPlace, foldl_chiRowInPlace_getElem _ List.nodup_range fun _ => List.mem_range.1,
      if_pos (List.mem_range.2 (row_lt i))]

/-! ### The rounds -/

theorem roundInPlace_eq (A : Lanes) (ir : RoundIdx) : roundInPlace A ir = keccakRound A ir := by
  rw [roundInPlace, thetaInPlace_eq, rhoPiInPlace_eq, chiInPlace_eq, keccakRound]

theorem keccakInPlace_eq (A : Lanes) : keccakInPlace A = keccakF A := by
  rw [keccakInPlace, funext₂ roundInPlace_eq, keccakF]

end Sys2Proof.Machine
end

section
/-! SUPPORT. STATUS after reset, a broken duty, a booted block, and edges at which the block waits (10_state.md R29;
30_encoding.md R65; 70_reset_and_hazards.md R150, R153, R154, R156). -/

namespace Sys2Proof.Machine

variable {s t : State}

theorem word_clear : Status.clear.word = 0 := by decide

/-! ### The host's duty -/

/-- The host breaks its duty exactly when a command is due and not on the pins. -/
theorem hostKeepsDuty_eq_false_iff : s.hostKeepsDuty = false ↔ ∃ b, s.held = some b ∧ s.pins.cmd ≠ some b := by
  simp [← Bool.not_eq_true, hostKeepsDuty_iff]

/-- Of a host that keeps its duty, an edge without reset answers a next state. -/
theorem step_next_of_duty (hrst : s.pins.rst = false) (hduty : s.hostKeepsDuty = true) : ∃ t, step s = .next t := by
  cases hc : s.ctl with
  | idle => exact ⟨_, step_of_idle hrst hduty hc⟩
  | exec b =>
    obtain ⟨t, -, ht, -⟩ := execBeat_next b s.passEdge
    exact ⟨t, (step_of_exec hrst hduty hc).trans ht⟩
  | resp r => exact ⟨_, step_of_resp hrst hduty hc⟩

theorem step_of_broken_duty (hrst : s.pins.rst = false) (hduty : s.hostKeepsDuty = false) :
    step s = .refused .hostDutyBroken := by simp [step, clockEdge, hrst, hduty]

/-! ### A booted block -/

@[simp] theorem accept_nextFree (s : State) : s.accept.nextFree = s.nextFree := by unfold State.accept; split <;> rfl
@[simp] theorem offerResponse_nextFree (s : State) (r : Response) : (s.offerResponse r).nextFree = s.nextFree := by
  unfold State.offerResponse; split <;> rfl

/-- Being booted is a matter of the flags alone. -/
theorem booted_of_defined (h : t.defined = s.defined) (hb : s.booted) : t.booted := fun i => by
  rw [State.isDefined, h]; exact hb i

/-- No command faults on a booted block. -/
theorem faultLane_of_booted (hb : s.booted) (c : Instr) : s.faultLane c = none :=
  Option.eq_none_iff_forall_ne_some.2 fun i h => by
    obtain ⟨hd, -⟩ := faultLane_eq_some_iff.1 h
    simp [hb i] at hd

/-- On a booted block a command leaves every lane defined and uses no free value. -/
theorem exec_of_booted {c : Instr} (hw : c.wellFormed = true) (hb : s.booted) (h : exec c s = .next t) :
    t.booted ∧ t.nextFree = s.nextFree := by
  cases c with
  | wrl lane d =>
    rw [exec_wrl_of_lt (lt_of_laneLegal hw)] at h
    cases h
    exact ⟨fun j => by simp [isDefined_define, hb j], rfl⟩
  | xrl lane d =>
    rw [exec_xrl_of_defined rfl (hb ⟨lane.toNat, lt_of_laneLegal hw⟩)] at h
    cases h
    exact ⟨hb, rfl⟩
  | rdl lane =>
    rw [exec_rdl_of_lt (lt_of_laneLegal hw), touch_of_defined (hb _)] at h
    cases h
    exact ⟨hb, rfl⟩
  | perm =>
    rw [exec, execPerm_of_defined ((firstUndefined_eq_none s).2 hb), loadLanes_of_booted hb] at h
    cases h
    exact ⟨hb, rfl⟩
  | clr => cases h; exact ⟨fun j => tabulate_get _ j, rfl⟩
  | nop | rds => cases h; exact ⟨hb, rfl⟩

/-! ### A response that is not taken -/

/-- An edge at which the host neither resets nor takes the held response changes only the host's side. -/
theorem step_of_untaken {r : Response} (hc : s.ctl = .resp r) (hrst : s.pins.rst = false)
    (hready : s.pins.rspReady = false) (hduty : s.hostKeepsDuty = true) : step s = .next s.passEdge := by
  rw [step_of_resp hrst hduty hc, offerResponse_of_not_ready hready]

/-- A host that keeps its offer over at least one edge keeps its duty at the first. -/
theorem hostKeepsDuty_of_keepsOffer {n : Nat} (h : s.keepsOffer (n + 1)) : s.hostKeepsDuty = true := by
  obtain ⟨hdue, -⟩ := h
  exact (hostKeepsDuty_iff s).2 fun b => hdue b n.succ_pos

/-! ### A command whose latency is not over -/

theorem pins_at_rest (hp : s.inputs = []) : s.pins = PortIn.rest := by rw [State.pins, hp]; rfl

/-- With a host at rest and nothing due, an edge changes nothing of a busy block but what its controller does. -/
theorem passEdge_at_rest (hc : s.ctl ≠ .idle) (hh : s.held = none) (hp : s.inputs = []) : s.passEdge = s := by
  rw [passEdge_of_busy hc, pins_at_rest hp, hp, List.tail_nil, ← hp, show PortIn.rest.cmd = s.held from hh.symm]

theorem latencyOf_pos (L : Config.Latency) (b : Beat) : 0 < latencyOf L b := by
  rw [latencyOf]
  split
  · exact L.perm_pos
  · exact L.acc_pos

theorem ticks_of_tick {L : Config.Latency} {w u : Timed} (h : tick L w = .next u) (k : Nat) :
    ticks L (k + 1) w = ticks L k u := by rw [ticks, h]

/-- An edge at which the block need not wait is a step. -/
theorem tick_of_step {L : Config.Latency} {n : Nat} (hw : s.ctl.busy = true → n ≤ 1) (h : step s = .next t) :
    tick L { core := s, left := n } = .next { core := t, left := latencyOfCtl L t.ctl } := by
  have hwait : ¬(s.ctl.busy ∧ 1 < n ∧ s.pins.rst = false ∧ s.hostKeepsDuty) := fun ⟨hb, hn, _⟩ =>
    absurd (hw hb) (by omega)
  rw [tick, if_neg hwait, h]

section

variable {b : Beat} (hc : s.ctl = .exec b) (hh : s.held = none) (hp : s.inputs = [])
include hc hh hp

/-- An edge of a command whose latency is not over counts down, and nothing else. -/
theorem tick_waiting (L : Config.Latency) (n : Nat) :
    tick L { core := s, left := n + 2 } = .next { core := s, left := n + 1 } := by
  have hrst : s.pins.rst = false := by rw [pins_at_rest hp]; rfl
  have hwait : s.ctl.busy ∧ 1 < n + 2 ∧ s.pins.rst = false ∧ s.hostKeepsDuty :=
    ⟨by rw [hc]; rfl, by omega, hrst, hostKeepsDuty_of_not_held hh⟩
  rw [tick, if_pos hwait, passEdge_at_rest (by simp [hc]) hh hp]
  rfl

/-- `j` edges before the last one of the latency count down by `j`, and do nothing else. -/
theorem ticks_waiting (L : Config.Latency) (n k : Nat) : ∀ j,
    ticks L (j + k) { core := s, left := j + n + 1 } = ticks L k { core := s, left := n + 1 }
  | 0 => by simp
  | j + 1 => by
    have hedges : j + 1 + k = j + k + 1 := by omega
    have hleft : j + 1 + n + 1 = j + n + 2 := by omega
    rw [hedges, hleft, ticks_of_tick (tick_waiting hc hh hp L (j + n)), ticks_waiting L n k j]

/-- Before its latency is over a command is still in EXEC, having changed nothing. -/
theorem ticks_within_latency (L : Config.Latency) {j : Nat} (hj : j < latencyOf L b) :
    ticks L j { core := s, left := latencyOf L b } = .next { core := s, left := latencyOf L b - j } := by
  obtain ⟨n, hn⟩ := Nat.exists_eq_add_of_lt hj
  have hleft : j + n + 1 - j = n + 1 := by omega
  rw [hn, hleft]
  exact ticks_waiting hc hh hp L n 0 j

/-- With a host at rest and nothing due, the step of a block in EXEC is the atomic step. -/
theorem step_exec_at_rest : step s = execBeat b s := by
  have hrst : s.pins.rst = false := by rw [pins_at_rest hp]; rfl
  rw [step_of_exec hrst (hostKeepsDuty_of_not_held hh) hc, passEdge_at_rest (by simp [hc]) hh hp]

/-- The last edge of a command's latency performs the command. -/
theorem ticks_latency (L : Config.Latency) (h : execBeat b s = .next t) :
    ticks L (latencyOf L b) { core := s, left := latencyOf L b } =
      .next { core := t, left := latencyOfCtl L t.ctl } := by
  obtain ⟨m, hm⟩ := Nat.exists_eq_add_one.2 (latencyOf_pos L b)
  have last := tick_of_step (L := L) (n := 1) (fun _ => le_rfl) ((step_exec_at_rest hc hh hp).trans h)
  rw [hm]
  exact (ticks_waiting hc hh hp L 0 1 m).trans (ticks_of_tick last 0)

end

end Sys2Proof.Machine
end

section
/-! PROOFS. The in-place permutation, reset, the one stop of a step, booted blocks, and the port over many edges
(70_reset_and_hazards.md R150, R152 to R157). -/

namespace Sys2Proof.Machine

/-- Settles O36: theta and rho change each lane by itself, chi each row by itself, and the walk is `piWalkIsPi`'s. -/
theorem inPlaceKeccakIsKeccak : Obligations.InPlaceKeccakIsKeccak :=
  ⟨thetaInPlace_eq, rhoInPlace_eq, chiInPlace_eq, roundInPlace_eq, keccakInPlace_eq⟩

/-- Settles O50: a reset edge and an edge of a host that keeps its duty answer a next state. -/
theorem onlyABrokenDutyStopsTheStep : Obligations.OnlyABrokenDutyStopsTheStep := by
  intro s
  rw [← hostKeepsDuty_eq_false_iff]
  cases hrst : s.pins.rst with
  | true => simp [step_of_rst hrst]
  | false =>
    cases hduty : s.hostKeepsDuty with
    | false => simp [step_of_broken_duty hrst hduty]
    | true =>
      obtain ⟨t, ht⟩ := step_next_of_duty hrst hduty
      simp [ht]

/-- Settles O51: a command faults on no lane of a booted block, and every other case of a step keeps the flags. -/
theorem bootedStaysBooted : Obligations.BootedStaysBooted := by
  intro s t hb hrst h
  obtain ⟨hr, -⟩ | ⟨-, -, ⟨-, rfl⟩ | ⟨b, i, -, hi, he⟩ | ⟨b, c, -, -, rfl⟩ | ⟨r, -, rfl⟩⟩ := step_next_cases h
  · simp [hrst] at hr
  · exact ⟨booted_of_defined (accept_defined s) hb, accept_raised s, accept_nextFree s⟩
  · obtain ⟨hbooted, hfree⟩ := exec_of_booted (s := s.passEdge) (wellFormed_of_decode hi) hb he
    refine ⟨hbooted, ?_, hfree⟩
    rw [exec_raised he, faultLane_passEdge, faultLane_of_booted hb]
    simp
  · exact ⟨hb, rfl, rfl⟩
  · exact ⟨booted_of_defined (offerResponse_defined s r) hb, offerResponse_raised s r, offerResponse_nextFree s r⟩

/-- Settles O54, by induction on the number of edges, each of which leaves the command on its pins due. -/
theorem untakenResponseIsHeld : Obligations.UntakenResponseIsHeld := by
  intro s r n
  induction n generalizing s with
  | zero => exact fun hc _ _ => ⟨s, rfl, hc, by simp [State.cmdReady, hc], rfl, rfl⟩
  | succ n ih =>
    intro hc hoffer hpins
    obtain ⟨hrst, hready⟩ := hpins 0 n.succ_pos
    have hstep := step_of_untaken hc hrst hready (hostKeepsDuty_of_keepsOffer hoffer)
    obtain ⟨t, ht, htc, htr, hts, hheld⟩ := ih s.passEdge hc (keepsOffer_passEdge hoffer) fun k hk => by
      simpa using hpins (k + 1) (by omega)
    refine ⟨t, (runSteps_of_step hstep n).trans ht, htc, htr, hts.trans ?_, hheld.trans ?_⟩
    · rw [passEdge_of_busy (by simp [hc]), List.drop_tail]
    · cases n with
      | zero => simp [passEdge_of_busy, hc, State.pinsAt_zero]
      | succ m => simp

/-- Settles O57: one edge accepts the command, all edges of its latency but the last are waited for, and the last is the
atomic step. -/
theorem responseComesAfterTheLatency : Obligations.ResponseComesAfterTheLatency := by
  intro L s b hc hh hp
  have accepted := ticks_of_tick (tick_of_step (L := L) (fun _ => Nat.zero_le 1) (step_offer hc hh hp))
  have hheld : State.held { s with ctl := .exec b, inputs := [] } = none := hh
  obtain ⟨t, -, ht, -⟩ := execBeat_next b { s with ctl := .exec b, inputs := [] }
  exact ⟨fun j hj => ⟨_, (accepted j).trans (ticks_within_latency rfl hheld rfl L hj), rfl, rfl⟩,
    ⟨t, _⟩, t, (accepted _).trans (ticks_latency rfl hheld rfl L ht), rfl, ht⟩

/-- Settles O41: the edge is the reset action, whatever the controller state. -/
theorem resetEdge : Obligations.ResetEdge := fun _ h =>
  ⟨cmdReady_of_rst h, _, step_of_rst h, rfl, rfl, rfl, word_clear, fun i => tabulate_get _ i, rfl⟩

/-- Settles O42: nothing is accepted at a reset edge, so that the command on the pins stays due. -/
theorem resetEdgeFreesTheLanes : Obligations.ResetEdgeFreesTheLanes := fun _ h =>
  ⟨_, step_of_rst h, fun i => tabulate_get _ i, rfl, rfl, rfl, if_neg (by simp [cmdReady_of_rst h])⟩

end Sys2Proof.Machine
end
